-- ==== Sys2Proof/Word.lean ====
section
/-! DEFINITION. The words and the small numbers of the scheduler. -/

namespace Sys2Proof

/-- One byte of the host bus, of the staging buffer and of the views. -/
abbrev Byte := BitVec 8

/-- A 16-bit item: phase, divisor, occurrence number, limit, elapsed count. -/
abbrev Half := BitVec 16

/-- A 32-bit item: count, time, delay, period, age. -/
abbrev Word := BitVec 32

/-- An entry number, 0 to 63 (00_scope 4-2). -/
abbrev EntryNo := Fin 64

/-- A class number, 0 to 7; class 0 has the highest priority (00_scope 4-2). -/
abbrev ClassNo := Fin 8

/-- The number of an output line OUT0 to OUT7. -/
abbrev OutLine := Fin 8

/-- The number of an input line IN0 to IN3. -/
abbrev InLine := Fin 4

/-- An address of the register window, 00H to 0FH (R162). -/
abbrev WinAddr := BitVec 4

end Sys2Proof
end

