-- ==== Sys2Proof/Syntax.lean ====
section
/-! DEFINITION. The commands: one constructor per row of spec/opcode_table.json. -/

namespace Sys2Proof

/-- How far one ARM or ARM AT command carries its operation. The operation reads the count when it is carried out and
completes later; ticks, edges and bus cycles may arrive between the two (R42, worked sequence 4-7-1). -/
inductive Span where
  /-- The operation is carried out and completes in the one step. -/
  | whole
  /-- The operation is carried out; its completion is left to the next command of the same row. -/
  | carryOut
  deriving DecidableEq, Repr

/-- The commands of the block, in the order of the table. A command that is a host write carries the written byte. -/
inductive Instr where
  /-- R2: a rising TBCLK edge arrives at the phase counter. -/
  | tbclkEdge
  /-- R3: the TBCLK edge that completes the interval in progress arrives. -/
  | tick
  /-- R46: a tick that the time base handed over arrives at the list controller. -/
  | listControllerTick
  /-- R87, R114: a tick that the time base handed over arrives at the dispatch unit; ages and service counts rise. -/
  | dispatchTick
  /-- R88: the stale withdrawals of the tick that the dispatch unit has taken. -/
  | staleWithdrawal
  /-- R115: the service limit check of the tick that the dispatch unit has taken. -/
  | serviceOverrun
  /-- R136: a tick that the time base handed over arrives at the line unit. -/
  | lineUnitTick
  /-- R5: host write of DIVISOR LOW (0EH). -/
  | divisorLow (b : Byte)
  /-- R5: host write of DIVISOR HIGH (0FH). -/
  | divisorHigh (b : Byte)
  /-- R10: host write of TIME CONTROL (0DH) with RUN 1 and CAPTURE 0. -/
  | runStart
  /-- R10: host write of TIME CONTROL with RUN 0 and CAPTURE 0. -/
  | runStop
  /-- R11: host write of TIME CONTROL with CAPTURE 1 and the given RUN bit. -/
  | capture (run : Bool)
  /-- R62: host write of OPERATION (01H). -/
  | operation (code : Byte)
  /-- R25: the list controller carries out DEFINE. -/
  | define
  /-- R29: the list controller carries out RELEASE. -/
  | release
  /-- R31: the list controller carries out READ DEFINITION. -/
  | readDefinition
  /-- R32: the list controller carries out READ STATE. -/
  | readState
  /-- R40: the list controller carries out ARM. -/
  | arm (span : Span)
  /-- R41: the list controller carries out ARM AT. -/
  | armAt (span : Span)
  /-- R43: the list controller carries out CANCEL. -/
  | cancel
  /-- R69: the list controller carries out CLEAR CLASS. -/
  | clearClass
  /-- R71: the list controller starts SET TIME. -/
  | setTime
  /-- R73: the walk of SET TIME ends and the operation completes. -/
  | setTimeWalkCompletion
  /-- R75: the list controller carries out CONFIGURE LINE. -/
  | configureLine
  /-- R76: the list controller carries out CONFIGURE CLASS. -/
  | configureClass
  /-- R65: the list controller completes an operation whose code names none. -/
  | unknownOperation
  /-- R47: the run that the arbiter has taken starts. -/
  | dueProcessingRun
  /-- R56: the list controller serves the latch that the arbiter has taken. -/
  | triggerArm
  /-- R80: the dispatch unit takes the oldest post request. -/
  | postRequest
  /-- R90: the dispatch unit takes the cancel request of the CANCEL in progress. -/
  | cancelRequest
  /-- R91: the dispatch unit takes the clear request of the CLEAR CLASS in progress. -/
  | clearRequest
  /-- R93: the dispatch unit answers the presence query of the operation in progress. -/
  | presenceQuery
  /-- R116: the dispatch unit takes the service limit of the CONFIGURE CLASS in progress. -/
  | serviceLimitReplacement
  /-- R102: host read of VECTOR (05H). -/
  | acknowledge
  /-- R110, R111: host write of DONE (05H). -/
  | done (b : Byte)
  /-- R123: the line unit takes the oldest action request. -/
  | actionRequest
  /-- R143: the line unit takes the configuration of the CONFIGURE LINE in progress. -/
  | lineConfiguration
  /-- R135: the level of an input pin becomes `level` (low `false`, high `true`). -/
  | levelChange (line : InLine) (level : Bool)
  /-- R96: host write of CONTROL (00H) with CLEAR ALL 0; the whole written byte. -/
  | enable (control : Byte)
  /-- R165: host write of CONTROL with CLEAR ALL 1; the whole written byte. -/
  | clearAll (control : Byte)
  /-- R64: host write of CONTROL with CLEAR COLLISION 1; the whole written byte. -/
  | clearCollision (control : Byte)
  /-- R140: host write of CONTROL with POP CAPTURE 1; the whole written byte. -/
  | popCapture (control : Byte)
  /-- R150: host write of CONTROL with POP MISS 1; the whole written byte. -/
  | popMiss (control : Byte)
  /-- R94: host write of CLASS MASK (08H). -/
  | classMask (b : Byte)
  /-- R154: host write of ALERT CLEAR (09H). -/
  | alertClear (b : Byte)
  /-- R156: host write of ALERT ENABLE (0AH). -/
  | alertEnable (b : Byte)
  /-- R128: host write of OUTPUT SET (0BH). -/
  | outputSet (b : Byte)
  /-- R128: host write of OUTPUT CLEAR (0CH). -/
  | outputClear (b : Byte)
  /-- R166: host write of STAGE POINTER (03H). -/
  | stagePointer (b : Byte)
  /-- R166: host write of STAGE DATA (04H). -/
  | stageDataWrite (b : Byte)
  /-- R166: host read of STAGE DATA (04H). -/
  | stageDataRead
  /-- R167: host read of VIEW DATA (07H). -/
  | viewData
  /-- R162: host write of a register without behaviour of its own: ENTRY SELECT (02H), VIEW SELECT (06H), 07H. -/
  | registerWrite (addr : WinAddr) (b : Byte)
  /-- R173: RESET* is asserted. -/
  | hardwareReset
  /-- R134: RESET* is negated. -/
  | resetNegation
  /-- R47: the run in progress takes its next expiry, or ends where none is due. -/
  | runNextExpiry
  deriving DecidableEq, Repr

end Sys2Proof
end

