-- ==== Sys2Proof/Decode.lean ====
section
/-! DEFINITION. The decoder of the rows that the table gives bits. -/

namespace Sys2Proof

/-- The command that a word spells by the bits spec/opcode_table.json gives its rows. The table gives NO row of this
part any bits (every row's field list is empty), so no word spells a command. -/
def decodeTableWord (_nbits _w : Nat) : Option Instr := none

end Sys2Proof
end

