-- ==== Sys2Proof/Config.lean ====
section
/-! DEFINITION. The sizes that the spec fixes for the part. The spec leaves no VALUE open for this part (it leaves only
orders of arrival open, and the order of the queue of commands is that order), so there is no free value here. -/

namespace Sys2Proof.Config

/-- The event pool has 32 slots (R78). -/
def poolSlots : Nat := 32

/-- The in-service stack holds at most 4 records (R101). -/
def stackDepth : Nat := 4

/-- The miss log holds at most 16 records (R149). -/
def missLogSize : Nat := 16

/-- The capture queue holds at most 16 records (R139). -/
def captureQueueSize : Nat := 16

end Sys2Proof.Config
end

