-- ==== Sys2Proof/Machine/State.lean ====
section
/-! DEFINITION. The state of the MP2416: seven blocks, the links between them, and the queue of commands. -/

namespace Sys2Proof.Machine

/-! ## Time base (chapter 1) -/

/-- The items of the time base (01_time_base 1-2, R1). -/
structure TimeBase where
  /-- PHASE: TBCLK edges counted in the interval in progress. -/
  phase : Half
  /-- ACTIVE DIVISOR; 0 stands for 65536 (R4). -/
  activeDivisor : Half
  /-- STAGED DIVISOR; active from the next tick on. -/
  stagedDivisor : Half
  /-- LOW-BYTE HOLD. -/
  lowHold : Byte
  /-- COUNT: ticks produced, modulo 2³². -/
  count : Word
  /-- RUN. -/
  run : Bool
  /-- The count held in the SNAPSHOT. -/
  snapCount : Word
  /-- The phase held in the SNAPSHOT. -/
  snapPhase : Half
  deriving DecidableEq, Repr

/-! ## Entry table and list controller (chapters 2 to 4) -/

/-- The timing states of an entry (R21). -/
inductive TimingState where
  | free | idle | armed
  deriving DecidableEq, Repr

/-- Whether an entry makes events (R16). -/
inductive Delivery where
  | silent | post
  deriving DecidableEq, Repr

/-- What a follow-on arm or a trigger arm does to an ARMED entry (R19). -/
inductive Policy where
  | keep | restart
  deriving DecidableEq, Repr

/-- The output actions other than NONE (R17). -/
inductive Action where
  | set | clear | toggle | pulse
  deriving DecidableEq, Repr

/-- An output action with its line. The line is present exactly when the action is not NONE (R17). -/
structure Output where
  act : Action
  line : OutLine
  deriving DecidableEq, Repr

/-- The host-written part of an entry record (02_timer_entries 2-2). -/
structure Definition where
  cls : ClassNo
  delivery : Delivery
  policy : Policy
  /-- `none` is the action NONE, with the line absent. -/
  output : Option Output
  delay : Word
  /-- `none` is the absent period: a one-shot entry (R18). -/
  period : Option Word
  /-- 0 is unlimited (R18). -/
  repeatLimit : Half
  followOn : Option EntryNo
  /-- 0 is never (R20). -/
  staleLimit : Half
  deriving DecidableEq, Repr

/-- The cleared definition (R34). -/
def Definition.cleared : Definition :=
  { cls := 0, delivery := .silent, policy := .keep, output := none, delay := 0, period := none, repeatLimit := 0,
    followOn := none, staleLimit := 0 }

/-- An entry record: its timing state, its definition and the three fields of its run state (R15, R21, R22). -/
structure Entry where
  timing : TimingState
  defn : Definition
  due : Option Word
  remaining : Half
  occurrence : Half
  deriving DecidableEq, Repr

/-- A FREE entry record (R34). -/
def Entry.free : Entry :=
  { timing := .free, defn := .cleared, due := none, remaining := 0, occurrence := 0 }

/-- The result codes of operations (R67). -/
inductive Result where
  | complete | noEffect | aborted | unknownOperation | badEntry | badField | badDelay | pastDue | entryFree | entryArmed
  | entryHasEvents | referenced | linkToFree
  deriving DecidableEq, Repr

/-- The sixteen bytes of a staging image (R63). -/
abbrev Image := Vector Byte 16

/-- What the operation slot holds: the written code and the copies taken when the write was accepted (R62). -/
structure HostOp where
  code : Byte
  image : Image
  entrySelect : Byte
  deriving DecidableEq, Repr

/-- An entry's event presence (R23). -/
structure Presence where
  pending : Bool
  held : Bool
  inService : Bool
  deriving DecidableEq, Repr

/-- How far the operation in progress has come. -/
inductive OpPhase where
  /-- Taken by the arbiter; nothing is carried out yet. -/
  | started
  /-- The dispatch unit has answered the presence query of DEFINE, RELEASE or READ STATE (R23). -/
  | presence (p : Presence)
  /-- All but the completion is done, with this result (R42, R44, R70, R75, R76). -/
  | carriedOut (r : Result)
  /-- SET TIME has started with shift D and walks the due list: the ADJUSTING state (R71, R73). -/
  | adjusting (d : Word)
  deriving DecidableEq, Repr

/-- The piece of work that the list controller has in hand (R59, R60). -/
inductive Work where
  /-- At rest. -/
  | rest
  /-- A due processing run: taken and not started (`none`), or under way with its run limit, until it ends (R47, R48). -/
  | run (limit : Option Word)
  /-- The service of one trigger latch (R56), taken and not carried out. -/
  | latch (n : InLine)
  /-- The service of one trigger latch, carried out; its end is still to come (R57). -/
  | latchServed
  /-- The host operation in the slot, IN PROGRESS (R62). -/
  | operation (ph : OpPhase)
  deriving DecidableEq, Repr

/-- The list controller with the entry table it owns. BUSY, the slot's state and ADJUSTING are read off `slot` and
`work` (Flags.lean). -/
structure ListController where
  /-- The ENTRY TABLE (R15). -/
  entries : Vector Entry 64
  /-- The DUE LIST, head first (R35). -/
  dueList : List EntryNo
  /-- The TRIGGER LATCHES of IN0 to IN3: EMPTY, or FULL with an edge time (R56). -/
  latches : Vector (Option Word) 4
  /-- The DUE PROCESSING OWED mark (R46). -/
  owed : Bool
  /-- The host operation slot (R62). -/
  slot : Option HostOp
  /-- The piece of work in hand (R59). -/
  work : Work
  /-- OP RESULT (R67). -/
  opResult : Result
  deriving DecidableEq, Repr

/-! ## Requests under way between the blocks -/

/-- A post request (R50). -/
structure PostReq where
  entry : EntryNo
  cls : ClassNo
  occurrence : Half
  due : Word
  expiry : Word
  staleLimit : Half
  pulseLine : Option OutLine
  deriving DecidableEq, Repr

/-- An action request; only PULSE carries the entry number (R51, R123). -/
inductive ActionReq where
  | set (l : OutLine)
  | clear (l : OutLine)
  | toggle (l : OutLine)
  | pulse (l : OutLine) (e : EntryNo)
  deriving DecidableEq, Repr

/-- What one block has sent and another has not taken yet: ticks handed over (R7), and the post and action requests of
due processing, oldest first (R50, R51). -/
structure Links where
  ticksToList : Nat
  ticksToDispatch : Nat
  ticksToLine : Nat
  posts : List PostReq
  actions : List ActionReq
  deriving DecidableEq, Repr

/-! ## Dispatch unit (chapters 5 and 6) -/

/-- An event of the pool or a held record (R79). -/
structure Record where
  entry : EntryNo
  cls : ClassNo
  firstOcc : Half
  due : Word
  expiry : Word
  overrun : Byte
  age : Word
  /-- 0 is absent. -/
  staleLimit : Half
  pulseLine : Option OutLine
  deriving DecidableEq, Repr

/-- A record of the in-service stack (R100). -/
structure ServiceRecord where
  entry : EntryNo
  cls : ClassNo
  firstOcc : Half
  due : Word
  expiry : Word
  overrun : Byte
  pulseLine : Option OutLine
  ackTime : Word
  elapsed : Half
  overrunFlag : Bool
  deriving DecidableEq, Repr

/-- The dispatch unit. -/
structure DispatchUnit where
  /-- The EVENT POOL in order of joining. The class list of class c is its members of class c in that order (R78). -/
  pool : List Record
  /-- The HELD QUEUE, head first (R82). -/
  held : List Record
  /-- The IN-SERVICE STACK, top first (R101). -/
  stack : List ServiceRecord
  /-- CLASS MASK; bit n masks class n (R94). -/
  classMask : Byte
  /-- ENABLE (R96). -/
  enable : Bool
  /-- The SERVICE LIMIT of each class; 0 is no limit (R115). -/
  limits : Vector Half 8
  /-- The tick just taken has its stale withdrawals still to make (R87, R88). -/
  staleOwed : Bool
  /-- The tick just taken has its service limit check still to make (R115). -/
  overrunOwed : Bool
  deriving DecidableEq, Repr

/-! ## Line unit (chapters 7 and 8) -/

/-- The edge selects of an input line (R134). -/
inductive EdgeSelect where
  | none | rising | falling | both
  deriving DecidableEq, Repr

/-- The direction of a change of level (R134). -/
inductive Edge where
  | rising | falling
  deriving DecidableEq, Repr

/-- One output line: base level and holder set (R122). The set is its members in rising order without repeats. -/
structure OutputLine where
  base : Bool
  holders : List EntryNo
  deriving DecidableEq, Repr

/-- What CONFIGURE LINE sends for one input line (R75, R143). -/
structure LineConfig where
  edgeSelect : EdgeSelect
  captureOn : Bool
  trigger : Option EntryNo
  holdOff : Byte
  deriving DecidableEq, Repr

/-- One input line (R134), with the level of its pin. -/
structure InputLine where
  cfg : LineConfig
  /-- The hold-off counter. -/
  counter : Byte
  /-- The last level that the line unit has seen. -/
  lastLevel : Bool
  /-- The level standing on the pin, which the line unit does not examine while RESET* is asserted. -/
  pin : Bool
  deriving DecidableEq, Repr

/-- A capture record (R139). -/
structure CaptureRecord where
  line : InLine
  edge : Edge
  count : Word
  phase : Half
  deriving DecidableEq, Repr

/-- The line unit. -/
structure LineUnit where
  outs : Vector OutputLine 8
  ins : Vector InputLine 4
  /-- The CAPTURE QUEUE, head first (R139). -/
  captures : List CaptureRecord
  deriving DecidableEq, Repr

/-! ## Miss log and alert unit (chapter 9) -/

/-- Why a record was withdrawn (R86). -/
inductive MissReason where
  | stale | withdrawn
  deriving DecidableEq, Repr

/-- A miss record (R148). -/
structure MissRecord where
  reason : MissReason
  entry : EntryNo
  cls : ClassNo
  firstOcc : Half
  due : Word
  overrun : Byte
  deriving DecidableEq, Repr

/-- The eight ALERT CAUSES (R153), in the order of their bits (R172). -/
inductive Cause where
  | opComplete | held | stale | serviceOverrun | missLost | captureReady | captureLost | deliveryError
  deriving DecidableEq, Repr

/-- The miss log and alert unit. ALERT CAUSE and ALERT ENABLE are registers the host reads and writes whole (R172). -/
structure AlertUnit where
  /-- The MISS LOG, head first (R149). -/
  missLog : List MissRecord
  causes : Byte
  enables : Byte
  deriving DecidableEq, Repr

/-! ## Register window (chapter 10) -/

/-- The register window. -/
structure Window where
  staging : Image
  stagePtr : BitVec 4
  entrySelect : Byte
  viewSource : BitVec 3
  viewIndex : BitVec 5
  /-- The COLLISION flag (R64). -/
  collision : Bool
  /-- The byte that the last read command drove on D0–D7; absent when none has been taken since reset. -/
  readData : Option Byte
  /-- RESET* stands asserted. -/
  resetAsserted : Bool
  deriving DecidableEq, Repr

/-! ## The whole machine -/

/-- The MP2416 and the commands that wait for it. -/
structure State where
  time : TimeBase
  lc : ListController
  link : Links
  du : DispatchUnit
  line : LineUnit
  alert : AlertUnit
  win : Window
  /-- The commands that wait, first in first out. -/
  pending : List Instr
  deriving DecidableEq, Repr

/-- The reasons a step could stop with a fault. The spec gives every command an effect in every state, so there is none:
no meaning of this model raises a fault (safe: nothing is cut off). -/
inductive Fault where
  deriving DecidableEq, Repr

/-- The reasons a step could refuse a command. -/
inductive Refusal where
  /-- A command whose meaning is not written yet, by its mnemonic; raised only in Dispatch.lean's arms (safe). No arm
  raises it now. -/
  | notModelled (mnemonic : String)
  deriving DecidableEq, Repr

/-- What a command answers. -/
abbrev Answer := Host.Outcome State Fault Refusal

/-! ## Hardware reset -/

/-- R1. -/
def TimeBase.reset : TimeBase :=
  { phase := 0, activeDivisor := 0, stagedDivisor := 0, lowHold := 0, count := 0, run := false, snapCount := 0,
    snapPhase := 0 }

/-- R34, R38, R59, R68. -/
def ListController.reset : ListController :=
  { entries := Vector.replicate 64 .free, dueList := [], latches := Vector.replicate 4 none, owed := false, slot := none,
    work := .rest, opResult := .complete }

/-- Nothing is under way between the blocks after reset: every sender is held at its reset values (R131, R158). -/
def Links.reset : Links :=
  { ticksToList := 0, ticksToDispatch := 0, ticksToLine := 0, posts := [], actions := [] }

/-- R98, R120. -/
def DispatchUnit.reset : DispatchUnit :=
  { pool := [], held := [], stack := [], classMask := 0xFF, enable := false, limits := Vector.replicate 8 0,
    staleOwed := false, overrunOwed := false }

/-- The configuration of an input line after reset (R145). -/
def LineConfig.reset : LineConfig := { edgeSelect := .none, captureOn := false, trigger := none, holdOff := 0 }

/-- R145; the levels of the pins come from outside: low here (DESIGN CHOICE, log entry 1). -/
def InputLine.reset : InputLine := { cfg := .reset, counter := 0, lastLevel := false, pin := false }

/-- R131. -/
def OutputLine.reset : OutputLine := { base := false, holders := [] }

/-- R131, R145. -/
def LineUnit.reset : LineUnit :=
  { outs := Vector.replicate 8 .reset, ins := Vector.replicate 4 .reset, captures := [] }

/-- R158. -/
def AlertUnit.reset : AlertUnit := { missLog := [], causes := 0, enables := 0 }

/-- R173; RESET* negated again. -/
def Window.reset : Window :=
  { staging := Vector.replicate 16 0, stagePtr := 0, entrySelect := 0, viewSource := 0, viewIndex := 0,
    collision := false, readData := none, resetAsserted := false }

/-- The machine right after a hardware reset: every block at its hardware reset values, RESET* negated again, no command
waiting. -/
def State.reset : State :=
  { time := .reset, lc := .reset, link := .reset, du := .reset, line := .reset, alert := .reset, win := .reset,
    pending := [] }

end Sys2Proof.Machine
end

