-- ==== Sys2Proof/Machine/Operands.lean ====
section
/-! DEFINITION. Codes and layouts: operation codes, result codes, multi-byte values, the staging layouts of the operations
and the checks of form that read them (R26, R27, R75, R76, R168 to R170). -/

namespace Sys2Proof.Machine

/-! ## Rows of like items -/

/-- The row with f of every item. -/
def mapAll {α β : Type} {n : Nat} (f : α → β) (v : Vector α n) : Vector β n := Vector.ofFn fun i => f v[i]

/-! ## Multi-byte values, low byte first (00_scope 4-2) -/

/-- Two bytes, the first the low one. -/
def le2 (b0 b1 : Byte) : Half := b1 ++ b0

/-- Four bytes, the first the lowest one. -/
def le4 (b0 b1 b2 b3 : Byte) : Word := b3 ++ b2 ++ b1 ++ b0

/-- The bytes of a 16-bit value, low byte first. -/
def bytes2 (h : Half) : List Byte := [h.extractLsb' 0 8, h.extractLsb' 8 8]

/-- The bytes of a 32-bit value, low byte first. -/
def bytes4 (w : Word) : List Byte :=
  [w.extractLsb' 0 8, w.extractLsb' 8 8, w.extractLsb' 16 8, w.extractLsb' 24 8]

/-- A small number as a byte. -/
def byteOfNat (n : Nat) : Byte := BitVec.ofNat 8 n

/-- Eight flags as a byte, bit 0 first. -/
def byteOfFlags (b0 b1 b2 b3 b4 b5 b6 b7 : Bool) : Byte :=
  BitVec.ofBool b7 ++ BitVec.ofBool b6 ++ BitVec.ofBool b5 ++ BitVec.ofBool b4 ++ BitVec.ofBool b3 ++ BitVec.ofBool b2 ++
    BitVec.ofBool b1 ++ BitVec.ofBool b0

/-- The byte that stands for an entry number, or for "absent" (FFH), in the layouts (R169, R170). -/
def entryByte : Option EntryNo → Byte
  | some e => byteOfNat e
  | none => 0xFF

/-- The entry that a byte names: 00H to 3FH; any other byte names none (R15). -/
def entryOf (b : Byte) : Option EntryNo :=
  if h : b.toNat < 64 then some ⟨b.toNat, h⟩ else none

/-- The class that a byte names: 0 to 7; any other byte names none (R69, R76). -/
def classOf (b : Byte) : Option ClassNo :=
  if h : b.toNat < 8 then some ⟨b.toNat, h⟩ else none

/-- The input line that a byte names: 0 to 3; any other byte names none (R75). -/
def inLineOf (b : Byte) : Option InLine :=
  if h : b.toNat < 4 then some ⟨b.toNat, h⟩ else none

/-- A three-bit field as a class or line number. -/
def field3 (b : Byte) (start : Nat) : Fin 8 := (b.extractLsb' start 3).toFin

/-! ## Operation and result codes (R168) -/

/-- The operations of the first table of R168. -/
inductive OpName where
  | define | release | readDefinition | readState | arm | armAt | cancel | clearClass | setTime | configureLine
  | configureClass
  deriving DecidableEq, Repr

/-- The code of an operation (R168). -/
def OpName.code : OpName → Byte
  | .define => 0x01
  | .release => 0x02
  | .readDefinition => 0x03
  | .readState => 0x04
  | .arm => 0x05
  | .armAt => 0x06
  | .cancel => 0x07
  | .clearClass => 0x08
  | .setTime => 0x09
  | .configureLine => 0x0A
  | .configureClass => 0x0B

/-- Every operation, in the order of its code. -/
def OpName.all : List OpName :=
  [.define, .release, .readDefinition, .readState, .arm, .armAt, .cancel, .clearClass, .setTime, .configureLine,
   .configureClass]

/-- The operation that a code names; a code absent from the table names none (R168). -/
def OpName.ofCode (b : Byte) : Option OpName := OpName.all.find? (fun n => n.code == b)

/-- The code of a result (R168). -/
def Result.code : Result → Byte
  | .complete => 0x00
  | .noEffect => 0x01
  | .aborted => 0x02
  | .unknownOperation => 0x10
  | .badEntry => 0x11
  | .badField => 0x12
  | .badDelay => 0x13
  | .pastDue => 0x14
  | .entryFree => 0x15
  | .entryArmed => 0x16
  | .entryHasEvents => 0x17
  | .referenced => 0x18
  | .linkToFree => 0x19

/-- The entry that the slot's copy of the entry select names (R15). -/
def HostOp.entry? (op : HostOp) : Option EntryNo := entryOf op.entrySelect

/-- Staging bytes 0 to 3 as a time: ARM AT's due time, SET TIME's new count (R170). -/
def HostOp.time (op : HostOp) : Word := le4 op.image[0] op.image[1] op.image[2] op.image[3]

/-! ## The DEFINE layout (R169) -/

/-- The action codes of R169, other than NONE. -/
def actionOf (n : Nat) : Option Action :=
  match n with
  | 1 => some .set
  | 2 => some .clear
  | 3 => some .toggle
  | 4 => some .pulse
  | _ => none

/-- The code of an action in R169. -/
def Action.code : Action → Byte
  | .set => 1
  | .clear => 2
  | .toggle => 3
  | .pulse => 4

/-- A word that stands for "absent" when it is 0 (the period, R169). -/
def periodOf (w : Word) : Option Word := if w = 0 then none else some w

/-- The definition that an image spells in the DEFINE layout (R169); used only on images that pass `formOk`. -/
def decodeDefinition (i : Image) : Definition :=
  { cls := field3 i[0] 0
    delivery := if i[0].getLsbD 3 then .post else .silent
    policy := if i[0].getLsbD 4 then .restart else .keep
    output := (actionOf (i[1].extractLsb' 0 3).toNat).map fun a => { act := a, line := field3 i[1] 4 }
    delay := le4 i[2] i[3] i[4] i[5]
    period := periodOf (le4 i[6] i[7] i[8] i[9])
    repeatLimit := le2 i[10] i[11]
    followOn := entryOf i[12]
    staleLimit := le2 i[13] i[14] }

/-- Byte 0 of the DEFINE layout. -/
def Definition.byte0 (d : Definition) : Byte :=
  byteOfNat d.cls ||| (if d.delivery = .post then 0x08 else 0) ||| (if d.policy = .restart then 0x10 else 0)

/-- Byte 1 of the DEFINE layout; the line is 0 for action NONE. -/
def Definition.byte1 (d : Definition) : Byte :=
  match d.output with
  | none => 0
  | some o => o.act.code ||| (byteOfNat o.line <<< 4)

/-- The image of a definition in the DEFINE layout, as READ DEFINITION writes it (R31, R169). -/
def encodeDefinition (d : Definition) : Image :=
  let delay := d.delay
  let period := d.period.getD 0
  #v[d.byte0, d.byte1,
     delay.extractLsb' 0 8, delay.extractLsb' 8 8, delay.extractLsb' 16 8, delay.extractLsb' 24 8,
     period.extractLsb' 0 8, period.extractLsb' 8 8, period.extractLsb' 16 8, period.extractLsb' 24 8,
     d.repeatLimit.extractLsb' 0 8, d.repeatLimit.extractLsb' 8 8,
     entryByte d.followOn,
     d.staleLimit.extractLsb' 0 8, d.staleLimit.extractLsb' 8 8,
     0]

/-- The fourth check of DEFINE passes: none of the six cases of R26 holds. -/
def formOk (i : Image) : Bool :=
  let action := (i[1].extractLsb' 0 3).toNat
  -- (1) every position that R169 gives as 0 is 0
  i[0].extractLsb' 5 3 == 0 && !i[1].getLsbD 3 && !i[1].getLsbD 7 && i[15] == 0 &&
  -- (2) the action is one of the five
  decide (action ≤ 4) &&
  -- (3) action NONE goes with line 0
  (action != 0 || i[1].extractLsb' 4 3 == 0) &&
  -- (4) the follow-on is an entry number or absent
  ((entryOf i[12]).isSome || i[12] == 0xFF) &&
  -- (5) PULSE needs POST
  (action != 4 || i[0].getLsbD 3) &&
  -- (6) an absent period goes with repeat limit 0
  (le4 i[6] i[7] i[8] i[9] != 0 || le2 i[10] i[11] == 0)

/-- A delay in range: 1 to 2³¹ − 1 (00_scope 4-1, R27). -/
def delayInRange (w : Word) : Bool := decide (1 ≤ w.toNat) && decide (w.toNat < 2 ^ 31)

/-- The fifth check of DEFINE passes: the delay is in range, and so is the period when it is present (R27). -/
def delaysOk (d : Definition) : Bool :=
  delayInRange d.delay && (match d.period with | none => true | some p => delayInRange p)

/-- A definition that DEFINE can have written: everything but the link check, read off the fields (R16 to R20). -/
def Definition.legal (d : Definition) : Bool :=
  delaysOk d &&
  (match d.output with | some o => o.act != .pulse || d.delivery == .post | none => true) &&
  (d.period.isSome || d.repeatLimit == 0)

/-! ## The READ STATE layout (R170) -/

/-- The code of a timing state (R170). -/
def TimingState.code : TimingState → Byte
  | .free => 0
  | .idle => 1
  | .armed => 2

/-- The presence byte (R170). -/
def Presence.byte (p : Presence) : Byte := byteOfFlags p.pending p.held p.inService false false false false false

/-- The image that READ STATE writes (R32, R170). -/
def encodeState (en : Entry) (p : Presence) : Image :=
  let due := en.due.getD 0
  #v[en.timing.code, p.byte,
     due.extractLsb' 0 8, due.extractLsb' 8 8, due.extractLsb' 16 8, due.extractLsb' 24 8,
     en.remaining.extractLsb' 0 8, en.remaining.extractLsb' 8 8,
     en.occurrence.extractLsb' 0 8, en.occurrence.extractLsb' 8 8,
     0, 0, 0, 0, 0, 0]

/-! ## The other layouts (R170) -/

/-- CANCEL's WITHDRAW flag: bit 0 of staging byte 0 (R43). -/
def HostOp.withdraw (op : HostOp) : Bool := op.image[0].getLsbD 0

/-- The class of CLEAR CLASS and CONFIGURE CLASS, when staging byte 0 names one (R69, R76). -/
def HostOp.class? (op : HostOp) : Option ClassNo := classOf op.image[0]

/-- CONFIGURE CLASS's service limit (R76). -/
def HostOp.limit (op : HostOp) : Half := le2 op.image[1] op.image[2]

/-- The edge select codes (R170). -/
def edgeSelectOf (n : BitVec 2) : EdgeSelect :=
  match n.toNat with
  | 0 => .none
  | 1 => .rising
  | 2 => .falling
  | _ => .both

/-- CONFIGURE LINE's line and configuration, when the image passes its check of form (R75, R170). -/
def HostOp.lineConfig? (op : HostOp) : Option (InLine × LineConfig) :=
  match inLineOf op.image[0] with
  | none => none
  | some n =>
    if op.image[1].extractLsb' 3 5 = 0 ∧ ((entryOf op.image[2]).isSome ∨ op.image[2] = 0xFF) then
      some (n, { edgeSelect := edgeSelectOf (op.image[1].extractLsb' 0 2)
                 captureOn := op.image[1].getLsbD 2
                 trigger := entryOf op.image[2]
                 holdOff := op.image[3] })
    else none

/-! ## Codes in the views (R171) -/

/-- The edge byte of the CAPTURE view. -/
def Edge.code : Edge → Byte
  | .rising => 1
  | .falling => 2

/-- The reason byte of the MISS view. -/
def MissReason.code : MissReason → Byte
  | .stale => 1
  | .withdrawn => 2

/-- The bit of an alert cause (R172). -/
def Cause.bit : Cause → Nat
  | .opComplete => 0
  | .held => 1
  | .stale => 2
  | .serviceOverrun => 3
  | .missLost => 4
  | .captureReady => 5
  | .captureLost => 6
  | .deliveryError => 7

/-! ## Time (R4, R9) -/

/-- The effective divisor (R4). -/
def effectiveDivisor (d : Half) : Nat := if d = 0 then 65536 else d.toNat

/-- The signed 32-bit difference a − b (R9). -/
def signedDiff (a b : Word) : Int := (a - b).toInt

/-- A time T is DUE at count N (R9). -/
def isDue (t n : Word) : Bool := decide (0 ≤ signedDiff n t)

/-- A time T is IN THE FUTURE at count N (R9). -/
def inFuture (t n : Word) : Bool := decide (1 ≤ signedDiff t n)

/-- The DISTANCE of a due time at a count (R35). -/
def distance (t n : Word) : Int := signedDiff t n

end Sys2Proof.Machine
end

