-- ==== Sys2Proof/Machine/Flags.lean ====
section
/-! DEFINITION. What is read off the state: levels of the output pins, eligibility, event presence, the status bits, and
the bytes of the views. -/

namespace Sys2Proof.Machine

/-! ## Entries and references -/

/-- The record of an entry. -/
def State.entry (s : State) (e : EntryNo) : Entry := s.lc.entries[e]

/-- The due time that orders a member of the due list. -/
def State.dueOf (s : State) (e : EntryNo) : Word := (s.entry e).due.getD 0

/-- The trigger of an input line (R134). -/
def State.trigger (s : State) (n : InLine) : Option EntryNo := (s.line.ins[n]).cfg.trigger

/-- The input lines in order. -/
def allInLines : List InLine := [0, 1, 2, 3]

/-- The classes, highest priority first. -/
def allClasses : List ClassNo := [0, 1, 2, 3, 4, 5, 6, 7]

/-- The levels of the in-service stack, bottom first. -/
def allLevels : List Nat := [0, 1, 2, 3]

/-- The entries in order. -/
def allEntries : List EntryNo := List.ofFn id

/-- Some other entry that is not FREE names entry e as follow-on, or a line names it as trigger (R24, R30). -/
def State.referenced (s : State) (e : EntryNo) : Bool :=
  (allEntries.any fun f => f != e && (s.entry f).timing != .free && (s.entry f).defn.followOn == some e) ||
  (allInLines.any fun n => s.trigger n == some e)

/-! ## The slot and the controller (R62, R73) -/

/-- BUSY is set exactly while the slot holds an operation (R62). -/
def State.busy (s : State) : Bool := s.lc.slot.isSome

/-- ADJUSTING is set from the start of SET TIME to its completion or abort (R73). -/
def State.adjusting (s : State) : Bool :=
  match s.lc.work with
  | .operation (.adjusting _) => true
  | _ => false

/-- The three states of the slot (R62). -/
inductive SlotState where
  | empty | waiting | inProgress
  deriving DecidableEq, Repr

/-- The state of the slot (R62). -/
def State.slotState (s : State) : SlotState :=
  match s.lc.slot, s.lc.work with
  | none, _ => .empty
  | some _, .operation _ => .inProgress
  | some _, _ => .waiting

/-! ## Class lists, presence, eligibility -/

/-- The class list of a class, head first: the pool's events of that class in order of joining (R78). -/
def State.classList (s : State) (c : ClassNo) : List Record := s.du.pool.filter fun r => r.cls == c

/-- Entry e has an event in the pool. -/
def State.hasEvent (s : State) (e : EntryNo) : Bool := s.du.pool.any fun r => r.entry == e

/-- Entry e has a held record. -/
def State.hasHeld (s : State) (e : EntryNo) : Bool := s.du.held.any fun r => r.entry == e

/-- Entry e has a record in service. -/
def State.hasService (s : State) (e : EntryNo) : Bool := s.du.stack.any fun r => r.entry == e

/-- The presence flags of an entry, as the dispatch unit's state stands (R23, R93). -/
def State.presence (s : State) (e : EntryNo) : Presence :=
  { pending := s.hasEvent e, held := s.hasHeld e, inService := s.hasService e }

/-- An entry HAS EVENTS when any of the three flags is set (R23). -/
def Presence.any (p : Presence) : Bool := p.pending || p.held || p.inService

/-- A class is ELIGIBLE: the four conditions of R95. -/
def State.eligible (s : State) (c : ClassNo) : Bool :=
  !(s.classList c).isEmpty &&
  !s.du.classMask.getLsbD c &&
  decide (s.du.stack.length < Config.stackDepth) &&
  (match s.du.stack with
   | [] => true
   | top :: _ => decide (c < top.cls))

/-- The lowest-numbered eligible class (R104). -/
def State.serveClass (s : State) : Option ClassNo := allClasses.find? s.eligible

/-- The event that an acknowledge takes: the head of the lowest-numbered eligible class (R104). -/
def State.nextEvent (s : State) : Option Record := s.serveClass.bind fun c => (s.classList c).head?

/-- ENABLE is 1 and some class is eligible: the condition of INT* (R96). -/
def State.serviceWanted (s : State) : Bool := s.du.enable && s.serveClass.isSome

/-- At least one cause is both set and enabled: the condition of ALERT* (R156). -/
def State.causeEnabled (s : State) : Bool := s.alert.causes &&& s.alert.enables != 0

/-- A record is STALE: its stale limit is present and its age has reached it (R88). -/
def Record.isStale (r : Record) : Bool := r.staleLimit != 0 && decide (r.staleLimit.toNat ≤ r.age.toNat)

/-! ## Lines (R122, R130, R144) -/

/-- The OBSERVED LEVEL of an output line, which drives its pin (R122). -/
def OutputLine.level (l : OutputLine) : Bool := l.base || !l.holders.isEmpty

/-- The observed output levels as one byte, bit n for OUTn (R130). -/
def State.outputLevels (s : State) : Byte :=
  let o := s.line.outs
  byteOfFlags o[0].level o[1].level o[2].level o[3].level o[4].level o[5].level o[6].level o[7].level

/-- The input levels as one byte; bits 4 to 7 read 0 (R144). -/
def State.inputLevels (s : State) : Byte :=
  let i := s.line.ins
  byteOfFlags i[0].lastLevel i[1].lastLevel i[2].lastLevel i[3].lastLevel false false false false

/-! ## VECTOR (R102) -/

/-- The value of NONE on VECTOR (R102). -/
def vectorNone : Byte := 0x80

/-- The value of NEST FULL on VECTOR (R102). -/
def vectorNestFull : Byte := 0x81

/-- The value that a read of VECTOR returns (R102). -/
def State.vectorValue (s : State) : Byte :=
  if Config.stackDepth ≤ s.du.stack.length then vectorNestFull
  else
    match s.nextEvent with
    | none => vectorNone
    | some r => byteOfNat r.entry

/-! ## Views (R97, R118, R119, R141, R151, R171) -/

/-- The EVENT view: the top record, or zeros (R118). -/
def State.eventView (s : State) : List Byte :=
  match s.du.stack with
  | [] => []
  | top :: _ =>
    [byteOfNat s.du.stack.length, byteOfNat top.entry, byteOfNat top.cls] ++ bytes2 top.firstOcc ++ bytes4 top.due ++
      bytes4 top.expiry ++ bytes4 top.ackTime ++ [top.overrun] ++ bytes2 top.elapsed ++
      [if top.overrunFlag then 1 else 0]

/-- The two bytes of one level of the STACK view; a level above the depth reads 00H twice (R119). -/
def stackLevel (stack : List ServiceRecord) (level : Nat) : List Byte :=
  match stack.reverse[level]? with
  | none => [0, 0]
  | some r => [byteOfNat r.entry, byteOfNat r.cls]

/-- The STACK view: the depth, and then entry and class of each level, bottom first (R119). -/
def State.stackView (s : State) : List Byte :=
  byteOfNat s.du.stack.length :: allLevels.flatMap (stackLevel s.du.stack)

/-- The POOL view: occupancy, held records, and the length of each class list (R97). -/
def State.poolView (s : State) : List Byte :=
  byteOfNat s.du.pool.length :: byteOfNat s.du.held.length :: allClasses.map fun c => byteOfNat (s.classList c).length

/-- The SNAPSHOT view (R12). -/
def State.snapshotView (s : State) : List Byte := bytes4 s.time.snapCount ++ bytes2 s.time.snapPhase

/-- The CAPTURE view (R141). -/
def State.captureView (s : State) : List Byte :=
  match s.line.captures with
  | [] => []
  | r :: _ => [byteOfNat s.line.captures.length, byteOfNat r.line, r.edge.code] ++ bytes4 r.count ++ bytes2 r.phase

/-- The MISS view (R151). -/
def State.missView (s : State) : List Byte :=
  match s.alert.missLog with
  | [] => []
  | r :: _ =>
    [byteOfNat s.alert.missLog.length, r.reason.code, byteOfNat r.entry, byteOfNat r.cls] ++ bytes2 r.firstOcc ++
      bytes4 r.due ++ [r.overrun]

/-- The bytes of a view source; a byte beyond the list reads 00H, as do sources 6 and 7 (R167, R171). -/
def State.view (s : State) (source : BitVec 3) : List Byte :=
  match source.toNat with
  | 0 => s.eventView
  | 1 => s.stackView
  | 2 => s.poolView
  | 3 => s.snapshotView
  | 4 => s.captureView
  | 5 => s.missView
  | _ => []

/-- The byte that a read of VIEW DATA returns (R167). -/
def State.viewByte (s : State) : Byte := (s.view s.win.viewSource)[s.win.viewIndex.toNat]?.getD 0

/-- The byte at the stage pointer (R166). -/
def State.stageByte (s : State) : Byte := s.win.staging[s.win.stagePtr.toFin]

end Sys2Proof.Machine
end

