-- ==== Sys2Proof/Machine/Ops.lean ====
section
/-! DEFINITION. The named operations that the commands' meanings are made of, block by block. Each is total and changes
the state as one event of the block that owns it; none touches the queue of commands. -/

namespace Sys2Proof.Machine

/-- A command that RESET* holds off while it is asserted (R131, R145, R158, R161, R173): it changes nothing then. -/
def live (s : State) (f : State → State) : Answer := .next (if s.win.resetAsserted then s else f s)

/-! ## Time base -/

/-- The event of the TBCLK edge that completes an interval: count, phase, active divisor, and one tick handed to each of
the three blocks (R3, R7). -/
def State.makeTick (s : State) : State :=
  { s with
    time := { s.time with count := s.time.count + 1, phase := 0, activeDivisor := s.time.stagedDivisor }
    link := { s.link with
      ticksToList := s.link.ticksToList + 1
      ticksToDispatch := s.link.ticksToDispatch + 1
      ticksToLine := s.link.ticksToLine + 1 } }

/-- The edge that arrives next completes the interval in progress (R2). -/
def TimeBase.lastEdge (t : TimeBase) : Bool := decide (effectiveDivisor t.activeDivisor ≤ t.phase.toNat + 1)

/-- A rising TBCLK edge (R2): counted while RUN is 1. -/
def State.tbclk (s : State) : State :=
  if s.time.run then
    if s.time.lastEdge then s.makeTick else { s with time := { s.time with phase := s.time.phase + 1 } }
  else s

/-- The RUN effect of a TIME CONTROL write (R10): a start sets the phase to 0. -/
def TimeBase.writeRun (t : TimeBase) (run : Bool) : TimeBase :=
  { t with run := run, phase := if run && !t.run then 0 else t.phase }

/-- The CAPTURE effect of a TIME CONTROL write (R11). -/
def TimeBase.snap (t : TimeBase) : TimeBase := { t with snapCount := t.count, snapPhase := t.phase }

/-- A TIME CONTROL write: the capture first, and then the RUN effect (R10, R11). -/
def State.timeControl (s : State) (run capture : Bool) : State :=
  { s with time := (if capture then s.time.snap else s.time).writeRun run }

/-- A write of DIVISOR LOW (R5). -/
def State.divisorLow (s : State) (b : Byte) : State := { s with time := { s.time with lowHold := b } }

/-- A write of DIVISOR HIGH (R5). -/
def State.divisorHigh (s : State) (b : Byte) : State :=
  { s with time := { s.time with stagedDivisor := le2 s.time.lowHold b } }

/-! ## Alert causes -/

/-- A set request for a cause (R153). -/
def State.setCause (s : State) (c : Cause) : State :=
  { s with alert := { s.alert with causes := s.alert.causes ||| (1 <<< c.bit) } }

/-- A miss record arrives at the miss log: it joins the tail, or it is discarded and MISS LOST is set (R149). -/
def State.logMiss (s : State) (m : MissRecord) : State :=
  if s.alert.missLog.length < Config.missLogSize then
    { s with alert := { s.alert with missLog := s.alert.missLog ++ [m] } }
  else s.setCause .missLost

/-! ## Output lines -/

/-- Change one output line. -/
def State.setOut (s : State) (l : OutLine) (o : OutputLine) : State :=
  { s with line := { s.line with outs := s.line.outs.set l o } }

/-- The set with e as a member; the members stay in rising order without repeats (R122, R124). -/
def insertHolder (e : EntryNo) : List EntryNo → List EntryNo
  | [] => [e]
  | x :: xs => if e < x then e :: x :: xs else if e = x then x :: xs else x :: insertHolder e xs

/-- An entry joins the holder set (R124). -/
def OutputLine.hold (o : OutputLine) (e : EntryNo) : OutputLine := { o with holders := insertHolder e o.holders }

/-- An entry leaves the holder set; one that is no member leaves it as it is (R125). -/
def OutputLine.unhold (o : OutputLine) (e : EntryNo) : OutputLine :=
  { o with holders := o.holders.filter fun x => x != e }

/-- A release request for entry e and line l (R125). -/
def State.releaseHolder (s : State) (l : OutLine) (e : EntryNo) : State := s.setOut l ((s.line.outs[l]).unhold e)

/-- The line unit performs an action request (R123). -/
def State.perform (s : State) : ActionReq → State
  | .set l => s.setOut l { s.line.outs[l] with base := true }
  | .clear l => s.setOut l { s.line.outs[l] with base := false }
  | .toggle l => s.setOut l { s.line.outs[l] with base := !(s.line.outs[l]).base }
  | .pulse l e => s.setOut l ((s.line.outs[l]).hold e)

/-- Perform action requests in order. -/
def State.performAll (s : State) (as : List ActionReq) : State := as.foldl State.perform s

/-- A write of OUTPUT SET (R128). -/
def State.outputSet (s : State) (b : Byte) : State :=
  { s with line := { s.line with
      outs := s.line.outs.mapFinIdx fun i o _ => if b.getLsbD i then { o with base := true } else o } }

/-- A write of OUTPUT CLEAR: base levels and holder sets of the selected lines (R128). -/
def State.outputClear (s : State) (b : Byte) : State :=
  { s with line := { s.line with
      outs := s.line.outs.mapFinIdx fun i o _ => if b.getLsbD i then { base := false, holders := [] } else o } }

/-! ## Dispatch unit: records -/

/-- The fields of a record that its miss record carries (R86, R148). -/
def Record.miss (r : Record) (reason : MissReason) : MissRecord :=
  { reason := reason, entry := r.entry, cls := r.cls, firstOcc := r.firstOcc, due := r.due, overrun := r.overrun }

/-- The record that a post request makes (R81, R82): overrun 0, and the lateness of the expiry as its age. -/
def PostReq.record (p : PostReq) : Record :=
  { entry := p.entry, cls := p.cls, firstOcc := p.occurrence, due := p.due, expiry := p.expiry, overrun := 0,
    age := p.expiry - p.due, staleLimit := p.staleLimit, pulseLine := p.pulseLine }

/-- A further occurrence merges into a record: its overrun count rises, saturating at 255 (R83). -/
def Record.merge (r : Record) : Record := { r with overrun := if r.overrun = 0xFF then r.overrun else r.overrun + 1 }

/-- Merge into the records of entry e; a list of the dispatch unit holds at most one (R80). -/
def mergeInto (e : EntryNo) (rs : List Record) : List Record := rs.map fun r => if r.entry = e then r.merge else r

/-- A record of entry e stands in the pool, the held queue or the stack (R85). -/
def State.hasRecord (s : State) (e : EntryNo) : Bool := (s.presence e).any

/-- The release request, if any, of a record that has just left: it is sent when the record names a line and no other
record of its entry remains (R85). -/
def State.releaseAfter (s : State) (e : EntryNo) (line : Option OutLine) : State :=
  match line with
  | none => s
  | some l => if s.hasRecord e then s else s.releaseHolder l e

/-- A pool slot stands free: the head of the held queue, if there is one, moves into it (R84). -/
def State.refill (s : State) : State :=
  match s.du.held with
  | [] => s
  | h :: hs =>
    if s.du.pool.length < Config.poolSlots then { s with du := { s.du with pool := s.du.pool ++ [h], held := hs } }
    else s

/-- Withdraw a held record: it leaves the queue, sends its miss record and the release called for; no slot frees (R84 to
R86). -/
def State.withdrawHeld (reason : MissReason) (s : State) (r : Record) : State :=
  (({ s with du := { s.du with held := s.du.held.erase r } } : State).logMiss (r.miss reason)).releaseAfter
    r.entry r.pulseLine

/-- Withdraw a pool event: it leaves its class list, sends its miss record and the release called for, and frees its
slot, into which the held head moves (R84 to R86). -/
def State.withdrawEvent (reason : MissReason) (s : State) (r : Record) : State :=
  ((({ s with du := { s.du with pool := s.du.pool.erase r } } : State).logMiss (r.miss reason)).releaseAfter
    r.entry r.pulseLine).refill

/-! ## Dispatch unit: the tick -/

/-- One tick of age, saturating (R87). -/
def Record.older (r : Record) : Record := { r with age := if r.age = 0xFFFFFFFF then r.age else r.age + 1 }

/-- One tick of service, saturating (R114). -/
def ServiceRecord.longer (r : ServiceRecord) : ServiceRecord :=
  { r with elapsed := if r.elapsed = 0xFFFF then r.elapsed else r.elapsed + 1 }

/-- The increments of a tick: ages of events and held records, service elapsed counts of service records (R87, R114). -/
def DispatchUnit.increment (d : DispatchUnit) : DispatchUnit :=
  { d with pool := d.pool.map Record.older, held := d.held.map Record.older, stack := d.stack.map ServiceRecord.longer }

/-- Step (1) of R88: the stale held records, from head to tail. -/
def State.withdrawStaleHeld (s : State) : State :=
  (s.du.held.filter Record.isStale).foldl (State.withdrawHeld .stale) s

/-- Step (2) of R88 for one class list: its stale events, from head to tail. -/
def State.withdrawStaleClass (s : State) (c : ClassNo) : State :=
  ((s.classList c).filter Record.isStale).foldl (State.withdrawEvent .stale) s

/-- Some waiting record is stale. -/
def State.anyStale (s : State) : Bool := s.du.held.any Record.isStale || s.du.pool.any Record.isStale

/-- The stale withdrawals of R88: held records, and then class lists 0 to 7; one set request for STALE if any. -/
def State.withdrawStale (s : State) : State :=
  let t := allClasses.foldl State.withdrawStaleClass s.withdrawStaleHeld
  if s.anyStale then t.setCause .stale else t

/-- A record that the check of R115 marks: flag clear, limit present, elapsed count at the limit or past it. -/
def ServiceRecord.overruns (limits : Vector Half 8) (r : ServiceRecord) : Bool :=
  !r.overrunFlag && limits[r.cls] != 0 && decide ((limits[r.cls]).toNat ≤ r.elapsed.toNat)

/-- The service limit check of R115; one set request for SERVICE OVERRUN if it marks any record. -/
def State.checkService (s : State) : State :=
  let t : State := { s with du := { s.du with
    stack := s.du.stack.map fun r => if r.overruns s.du.limits then { r with overrunFlag := true } else r } }
  if s.du.stack.any (ServiceRecord.overruns s.du.limits) then t.setCause .serviceOverrun else t

/-- The stale withdrawals of the tick just taken, if they are still to make. -/
def State.finishStale (s : State) : State :=
  if s.du.staleOwed then
    ({ s with du := { s.du with staleOwed := false } } : State).withdrawStale
  else s

/-- The service limit check of the tick just taken, if it is still to make. -/
def State.finishOverrun (s : State) : State :=
  if s.du.overrunOwed then
    ({ s with du := { s.du with overrunOwed := false } } : State).checkService
  else s

/-- The rest of the work of the tick just taken. No arrival falls between the parts of one tick (R77, R87, R114), so each
arrival that could tell takes what is left of the tick first (DESIGN CHOICE, log entry 8). -/
def State.finishTick (s : State) : State := s.finishStale.finishOverrun

/-- A tick arrives at the dispatch unit: what is left of the tick before it, and then the increments; the withdrawals and
the check of this tick are then to make (R87, R88, R114, R115). -/
def State.takeDispatchTick (s : State) : State :=
  let t := s.finishTick
  { t with
    du := { t.du.increment with staleOwed := true, overrunOwed := true }
    link := { t.link with ticksToDispatch := t.link.ticksToDispatch - 1 } }

/-! ## Dispatch unit: requests -/

/-- The dispatch unit takes a post request by the first of the four cases of R80. -/
def State.postCase (s : State) (p : PostReq) : State :=
  if s.hasEvent p.entry then { s with du := { s.du with pool := mergeInto p.entry s.du.pool } }
  else if s.hasHeld p.entry then { s with du := { s.du with held := mergeInto p.entry s.du.held } }
  else if s.du.pool.length < Config.poolSlots then { s with du := { s.du with pool := s.du.pool ++ [p.record] } }
  else ({ s with du := { s.du with held := s.du.held ++ [p.record] } } : State).setCause .held

/-- The action requests up to and with the first PULSE, and those behind it. -/
def splitPulse : List ActionReq → List ActionReq × List ActionReq
  | [] => ([], [])
  | .pulse l e :: as => ([.pulse l e], as)
  | .set l :: as => (.set l :: (splitPulse as).1, (splitPulse as).2)
  | .clear l :: as => (.clear l :: (splitPulse as).1, (splitPulse as).2)
  | .toggle l :: as => (.toggle l :: (splitPulse as).1, (splitPulse as).2)

/-- The line unit takes the action requests up to and with the first PULSE, in order (R51, R124). -/
def State.takePulse (s : State) : State :=
  let q := splitPulse s.link.actions
  { s.performAll q.1 with link := { s.link with actions := q.2 } }

/-- One post request is taken. A PULSE expiry's two requests are taken as one event (R124): the line unit takes its action
request, and what was issued before that one, with it. -/
def State.takePost (s : State) (p : PostReq) : State :=
  (if p.pulseLine.isSome then s.takePulse else s).postCase p

/-- The dispatch unit takes the oldest post request, after what is left of a tick. With none under way there is no
arrival, and nothing changes (DESIGN CHOICE, log entry 6). -/
def State.takeNextPost (s : State) : State :=
  match s.link.posts with
  | [] => s
  | p :: ps =>
    let t := s.finishTick
    ({ t with link := { t.link with posts := ps } } : State).takePost p

/-- The dispatch unit takes every post request issued so far, in order. A presence query, a cancel, clear or shift
request that the list controller sends later finds them taken (R23, R50, R93). -/
def State.takeAllPosts (s : State) : State :=
  let t := s.finishTick
  t.link.posts.foldl State.takePost { t with link := { t.link with posts := [] } }

/-- The post requests up to and with the first that names a pulse line, and those behind it. -/
def splitPost : List PostReq → List PostReq × List PostReq
  | [] => ([], [])
  | p :: ps => if p.pulseLine.isSome then ([p], ps) else (p :: (splitPost ps).1, (splitPost ps).2)

/-- The line unit takes the oldest action request. A PULSE is taken with its post request as one event (R124), and that
one is taken after those issued before it (R50). With none under way there is no arrival, and nothing changes (DESIGN
CHOICE, log entry 6). -/
def State.takeNextAction (s : State) : State :=
  match s.link.actions with
  | [] => s
  | .pulse l e :: as =>
    let t := s.finishTick
    let q := splitPost t.link.posts
    (q.1.foldl State.postCase { t with link := { t.link with posts := q.2, actions := as } }).perform (.pulse l e)
  | a :: as => ({ s with link := { s.link with actions := as } } : State).perform a

/-- The dispatch unit takes a cancel request (R90): (1) a held record of the entry, (2) with WITHDRAW its event. -/
def State.takeCancel (s : State) (e : EntryNo) (withdraw : Bool) : State :=
  let t := (s.du.held.filter fun r => r.entry == e).foldl (State.withdrawHeld .withdrawn) s
  if withdraw then (t.du.pool.filter fun r => r.entry == e).foldl (State.withdrawEvent .withdrawn) t else t

/-- The dispatch unit takes a clear request (R91): the held records of the class, and then its class list. -/
def State.takeClear (s : State) (c : ClassNo) : State :=
  let t := (s.du.held.filter fun r => r.cls == c).foldl (State.withdrawHeld .withdrawn) s
  (t.classList c).foldl (State.withdrawEvent .withdrawn) t

/-- The shift of one waiting record (R92). -/
def Record.shift (d : Word) (r : Record) : Record := { r with due := r.due + d, expiry := r.expiry + d }

/-- The shift of one service record (R92, R117). -/
def ServiceRecord.shift (d : Word) (r : ServiceRecord) : ServiceRecord :=
  { r with due := r.due + d, expiry := r.expiry + d, ackTime := r.ackTime + d }

/-- The dispatch unit takes a shift request (R92). -/
def DispatchUnit.shift (d : Word) (u : DispatchUnit) : DispatchUnit :=
  { u with pool := u.pool.map (Record.shift d), held := u.held.map (Record.shift d),
           stack := u.stack.map (ServiceRecord.shift d) }

/-! ## Dispatch unit: acknowledge and DONE -/

/-- The service record that an acknowledge makes of an event at a count (R100). -/
def Record.service (r : Record) (count : Word) : ServiceRecord :=
  { entry := r.entry, cls := r.cls, firstOcc := r.firstOcc, due := r.due, expiry := r.expiry, overrun := r.overrun,
    pulseLine := r.pulseLine, ackTime := count, elapsed := 0, overrunFlag := false }

/-- The acknowledge of R103 for event r: it leaves its list, is pushed, and its slot is refilled. -/
def State.serve (s : State) (r : Record) : State :=
  ({ s with du := { s.du with
    pool := s.du.pool.erase r
    stack := r.service s.time.count :: s.du.stack } } : State).refill

/-- The effect of a VECTOR read on the dispatch unit, by the cases of R102. -/
def State.ackEffect (s : State) : State :=
  if Config.stackDepth ≤ s.du.stack.length then s
  else
    match s.nextEvent with
    | none => s
    | some r => s.serve r

/-- The value that a read drove on the data bus. -/
def State.drive (s : State) (v : Byte) : State := { s with win := { s.win with readData := some v } }

/-- A read of VECTOR: the value and the acknowledge are decided from the same state (R102). -/
def State.readVector (s : State) : State :=
  let t := s.finishTick
  t.ackEffect.drive t.vectorValue

/-- A write of DONE (R110, R111). -/
def State.writeDone (s : State) (b : Byte) : State :=
  let t := s.finishTick
  match t.du.stack with
  | [] => t.setCause .deliveryError
  | top :: rest =>
    if b = byteOfNat top.entry then
      ({ t with du := { t.du with stack := rest } } : State).releaseAfter top.entry top.pulseLine
    else t.setCause .deliveryError

/-! ## List controller: the arbiter -/

/-- The first full trigger latch, in line order (R60). -/
def ListController.fullLatch (c : ListController) : Option InLine := allInLines.find? fun n => (c.latches[n]).isSome

/-- The arbiter's choice among the pieces of work that wait (R60). -/
def ListController.choose (c : ListController) : Work :=
  if c.owed then .run none
  else
    match c.fullLatch with
    | some n => .latch n
    | none => if c.slot.isSome then .operation .started else .rest

/-- A piece of work ends: the arbiter chooses the next one, or the controller comes to rest (R59, R60). -/
def State.endWork (s : State) : State := { s with lc := { s.lc with work := s.lc.choose } }

/-- Something has become ready: a controller at rest takes it at once (R59). -/
def State.wake (s : State) : State := if s.lc.work = .rest then s.endWork else s

/-- The work in hand changes its phase. -/
def State.setWork (s : State) (w : Work) : State := { s with lc := { s.lc with work := w } }

/-- Set the due processing owed mark (R46). -/
def State.oweRun (s : State) : State := { s with lc := { s.lc with owed := true } }

/-- A tick arrives at the list controller (R46). -/
def State.takeListTick (s : State) : State :=
  ({ s.oweRun with link := { s.link with ticksToList := s.link.ticksToList - 1 } } : State).wake

/-! ## List controller: the due list -/

/-- Replace an entry record. -/
def State.setEntry (s : State) (e : EntryNo) (en : Entry) : State :=
  { s with lc := { s.lc with entries := s.lc.entries.set e en } }

/-- Link e before the first member whose distance is greater than its own, or at the tail (R36). -/
def insertBy (dist : EntryNo → Int) (e : EntryNo) : List EntryNo → List EntryNo
  | [] => [e]
  | m :: ms => if dist m ≤ dist e then m :: insertBy dist e ms else e :: m :: ms

/-- An insertion of entry e with due time t (R36): it becomes ARMED with that due time, and the list is walked by
distances from the current count. -/
def State.insertDue (s : State) (e : EntryNo) (t : Word) : State :=
  let u := s.setEntry e { s.entry e with timing := .armed, due := some t }
  { u with lc := { u.lc with dueList := insertBy (fun m => distance (u.dueOf m) s.time.count) e u.lc.dueList } }

/-- A removal of entry e (R37): it becomes IDLE, its due time absent and its remaining 0. -/
def State.removeDue (s : State) (e : EntryNo) : State :=
  let u := s.setEntry e { s.entry e with timing := .idle, due := none, remaining := 0 }
  { u with lc := { u.lc with dueList := u.lc.dueList.erase e } }

/-- An entry that stands in the list is removed from it. -/
def State.disarm (s : State) (e : EntryNo) : State := if (s.entry e).timing = .armed then s.removeDue e else s

/-- What remaining is set to at an arming: the repeat limit of a periodic entry, 0 for a one-shot entry (R22, R39). -/
def Definition.firstRemaining (d : Definition) : Half := if d.period.isSome then d.repeatLimit else 0

/-- A FRESH ARM of entry e with due time t (R39). -/
def State.freshArm (s : State) (e : EntryNo) (t : Word) : State :=
  let u := (s.disarm e).insertDue e t
  u.setEntry e { u.entry e with occurrence := 0, remaining := (u.entry e).defn.firstRemaining }

/-- A follow-on arm or a trigger arm of this entry makes a fresh arm: it is IDLE, or ARMED with RESTART. No arm takes a
FREE entry (R34, R39). -/
def Entry.takesArm (en : Entry) : Bool :=
  match en.timing with
  | .free => false
  | .idle => true
  | .armed => en.defn.policy == .restart

/-- A follow-on arm or a trigger arm of entry e, reckoned from a time (R53, R56). -/
def State.policyArm (s : State) (e : EntryNo) (origin : Word) : State :=
  if (s.entry e).takesArm then s.freshArm e (origin + (s.entry e).defn.delay) else s

/-! ## List controller: expiry (R49 to R53) -/

/-- The post request of an expiry of entry e (R50). -/
def Definition.postReq (d : Definition) (e : EntryNo) (occ : Half) (due now : Word) : PostReq :=
  { entry := e, cls := d.cls, occurrence := occ, due := due, expiry := now, staleLimit := d.staleLimit,
    pulseLine := match d.output with
      | some o => if o.act = .pulse then some o.line else none
      | none => none }

/-- The action request of an output action (R51). -/
def Output.request (o : Output) (e : EntryNo) : ActionReq :=
  match o.act with
  | .set => .set o.line
  | .clear => .clear o.line
  | .toggle => .toggle o.line
  | .pulse => .pulse o.line e

/-- The post and action requests of an expiry are issued (R50, R51). -/
def State.issue (s : State) (d : Definition) (e : EntryNo) (occ : Half) (due : Word) : State :=
  { s with link := { s.link with
    posts := if d.delivery = .post then s.link.posts ++ [d.postReq e occ due s.time.count] else s.link.posts
    actions := match d.output with
      | some o => s.link.actions ++ [o.request e]
      | none => s.link.actions } }

/-- The series of a periodic entry goes on after an expiry, by the remaining saved before it (R52). -/
def Definition.continues (d : Definition) (saved : Half) : Bool :=
  d.period.isSome && (d.repeatLimit == 0 || decide (2 ≤ saved.toNat))

/-- The remaining of an entry whose series goes on (R52). -/
def Definition.nextRemaining (d : Definition) (saved : Half) : Half := if d.repeatLimit = 0 then 0 else saved - 1

/-- The continuation of an expiry (R52, R53): re-insertion at the old due time plus the period, or the end of the series
with the follow-on arm. -/
def State.continueSeries (s : State) (d : Definition) (e : EntryNo) (saved : Half) (due : Word) : State :=
  if d.continues saved then
    let u := s.insertDue e (due + d.period.getD 0)
    u.setEntry e { u.entry e with remaining := d.nextRemaining saved }
  else
    match d.followOn with
    | some f => s.policyArm f due
    | none => s

/-- One expiry of entry e (R49 to R53). -/
def State.expire (s : State) (e : EntryNo) : State :=
  let en := s.entry e
  let due := s.dueOf e
  let u := s.removeDue e
  let occ := en.occurrence + 1
  let v := (u.setEntry e { u.entry e with occurrence := occ }).issue en.defn e occ due
  v.continueSeries en.defn e en.remaining due

/-- The head of the due list, when it is due at the run limit (R47). -/
def State.dueHead (s : State) (limit : Word) : Option EntryNo :=
  match s.lc.dueList with
  | [] => none
  | e :: _ => if isDue (s.dueOf e) limit then some e else none

/-- The run takes the head of the list, if it is due at the limit, and makes one expiry of it (R47). -/
def State.runExpiry (s : State) (limit : Word) : State :=
  match s.dueHead limit with
  | some e => s.expire e
  | none => s

/-- A run starts: the owed mark clears, the run limit is read, and the head is taken if it is due (R47). The run stays
under way until it ends (`settle`). -/
def State.startRun (s : State) : State :=
  (({ s with lc := { s.lc with owed := false } } : State).runExpiry s.time.count).setWork (.run (some s.time.count))

/-- The piece of work in hand has nothing left but its end: a run whose list has no head due at its limit (R47), or a latch
that has been served (R56). -/
def State.atEnd (s : State) : Bool :=
  match s.lc.work with
  | .run (some limit) => (s.dueHead limit).isNone
  | .latchServed => true
  | _ => false

/-- The end of a piece of work that has nothing else left, at which the arbiter chooses (R59, R60). Every row of the
controller's work comes after it; ticks, edges and bus cycles may come before it, and count at that choice (R48, R57; DESIGN
CHOICE, log entry 10). -/
def State.settle (s : State) : State := if s.atEnd then s.endWork else s

/-- A row of the list controller's work, or of a request of the work in hand: the piece before it has come to its end. -/
def liveWork (s : State) (f : State → State) : Answer := live s fun s => f s.settle

/-! ## List controller: trigger latches (R56, R57) -/

/-- Replace the content of a trigger latch. -/
def State.setLatch (s : State) (n : InLine) (t : Option Word) : State :=
  { s with lc := { s.lc with latches := s.lc.latches.set n t } }

/-- A latch fill (R142): an empty latch becomes full, a full one keeps its edge time. -/
def State.fillLatch (s : State) (n : InLine) (t : Word) : State :=
  match s.lc.latches[n] with
  | some _ => s
  | none => s.setLatch n (some t)

/-- A trigger arm of entry x from an edge time (R56). One whose due time is due already makes due processing owed (R36,
R57). -/
def State.triggerArm (s : State) (x : EntryNo) (edge : Word) : State :=
  let u := s.policyArm x edge
  if (s.entry x).takesArm && isDue (edge + (s.entry x).defn.delay) s.time.count then u.oweRun else u

/-- The service of the latch of line n (R56, R57): the latch empties, and the entry named by the line's trigger is
armed. -/
def State.serveLatch (s : State) (n : InLine) : State :=
  let u := s.setLatch n none
  match s.lc.latches[n], s.trigger n with
  | some t, some x => u.triggerArm x t
  | _, _ => u

/-! ## List controller: host operations -/

/-- A write of OPERATION (R62, R64): accepted into an empty slot with copies of the staging buffer and the entry select,
refused with COLLISION otherwise. -/
def State.writeOperation (s : State) (code : Byte) : State :=
  match s.lc.slot with
  | none =>
    ({ s with lc := { s.lc with
      slot := some { code := code, image := s.win.staging, entrySelect := s.win.entrySelect } } } : State).wake
  | some _ => { s with win := { s.win with collision := true } }

/-- The completion of the operation in the slot, without read data (R66). -/
def State.complete (s : State) (r : Result) : State :=
  (({ s with lc := { s.lc with opResult := r, slot := none } } : State).setCause .opComplete).endWork

/-- The completion of a read operation: its sixteen bytes go to the staging buffer first (R66). -/
def State.completeRead (s : State) (i : Image) : State :=
  ({ s with win := { s.win with staging := i } } : State).complete .complete

/-- The operation in progress, when its code names operation n: what the slot holds, and how far it has come. -/
def State.inProgress (s : State) (n : OpName) : Option (HostOp × OpPhase) :=
  match s.lc.slot, s.lc.work with
  | some op, .operation ph => if OpName.ofCode op.code = some n then some (op, ph) else none
  | _, _ => none

/-- Carry operation n further, when it is the one in progress; otherwise there is nothing to carry out. -/
def State.onOperation (s : State) (n : OpName) (f : HostOp → OpPhase → State) : State :=
  match s.inProgress n with
  | some (op, ph) => f op ph
  | none => s

/-- The presence that an operation works from: the answer it has had, or the answer it gets now (R23, R28). -/
def OpPhase.answerOr (ph : OpPhase) (p : Presence) : Presence :=
  match ph with
  | .presence q => q
  | _ => p

/-- The state after the presence query of an operation, if it has still to be made. -/
def State.afterQuery (s : State) (ph : OpPhase) : State :=
  match ph with
  | .presence _ => s
  | _ => s.takeAllPosts

/-- The presence answer that the operation works from, read off the state after the query. -/
def State.answer (s : State) (ph : OpPhase) (e : EntryNo) : Presence := ph.answerOr (s.presence e)

/-- The last three checks of DEFINE: form, ranges and link, on the image (R25 to R27). -/
def State.checkDefine (s : State) (e : EntryNo) (i : Image) : Result :=
  let d := decodeDefinition i
  if !formOk i then .badField
  else if !delaysOk d then .badDelay
  else
    match d.followOn with
    | some f => if f ≠ e ∧ (s.entry f).timing = .free then .linkToFree else .complete
    | none => .complete

/-- The entry record that DEFINE leaves (R25). -/
def Entry.defined (d : Definition) : Entry :=
  { timing := .idle, defn := d, due := none, remaining := 0, occurrence := 0 }

/-- DEFINE (R25 to R28). -/
def State.doDefine (s : State) (op : HostOp) (ph : OpPhase) : State :=
  match op.entry? with
  | none => s.complete .badEntry
  | some e =>
    if (s.entry e).timing = .armed then s.complete .entryArmed
    else
      let t := s.afterQuery ph
      if (t.answer ph e).any then t.complete .entryHasEvents
      else
        match t.checkDefine e op.image with
        | .complete => (t.setEntry e (.defined (decodeDefinition op.image))).complete .complete
        | r => t.complete r

/-- RELEASE (R29, R30). -/
def State.doRelease (s : State) (op : HostOp) (ph : OpPhase) : State :=
  match op.entry? with
  | none => s.complete .badEntry
  | some e =>
    match (s.entry e).timing with
    | .free => s.complete .entryFree
    | .armed => s.complete .entryArmed
    | .idle =>
      let t := s.afterQuery ph
      if (t.answer ph e).any then t.complete .entryHasEvents
      else if t.referenced e then t.complete .referenced
      else (t.setEntry e .free).complete .complete

/-- READ DEFINITION (R31). -/
def State.doReadDefinition (s : State) (op : HostOp) : State :=
  match op.entry? with
  | none => s.complete .badEntry
  | some e =>
    if (s.entry e).timing = .free then s.complete .entryFree
    else s.completeRead (encodeDefinition (s.entry e).defn)

/-- READ STATE (R32, R33). -/
def State.doReadState (s : State) (op : HostOp) (ph : OpPhase) : State :=
  match op.entry? with
  | none => s.complete .badEntry
  | some e =>
    let t := s.afterQuery ph
    t.completeRead (encodeState (t.entry e) (t.answer ph e))

/-- The checks of ARM and CANCEL: the entry is named and not FREE (R40, R43). -/
def State.checkDefined (s : State) (op : HostOp) : Result :=
  match op.entry? with
  | none => .badEntry
  | some e => if (s.entry e).timing = .free then .entryFree else .complete

/-- The checks of ARM AT (R41). -/
def State.checkArmAt (s : State) (op : HostOp) : Result :=
  match s.checkDefined op with
  | .complete => if inFuture op.time s.time.count then .complete else .pastDue
  | r => r

/-- A fresh arm of the operation's entry, when its checks have passed. -/
def State.armIf (s : State) (r : Result) (op : HostOp) (t : EntryNo → Word) : State :=
  match r, op.entry? with
  | .complete, some e => s.freshArm e (t e)
  | _, _ => s

/-- Carry ARM or ARM AT out, unless that is done already, and complete it if the command goes so far (R40 to R42, R66). -/
def State.doArm (s : State) (op : HostOp) (ph : OpPhase) (span : Span) (r : Result) (t : EntryNo → Word) : State :=
  match ph with
  | .carriedOut r' => s.complete r'
  | _ =>
    let u := s.armIf r op t
    match span with
    | .whole => u.complete r
    | .carryOut => u.setWork (.operation (.carriedOut r))

/-- The dispatch unit takes the cancel request of CANCEL, after the posts issued before it, and answers its two flags
(R44, R90). -/
def State.sendCancel (s : State) (op : HostOp) (e : EntryNo) : State × Bool × Bool :=
  let t := s.takeAllPosts
  (t.takeCancel e op.withdraw, t.hasHeld e, op.withdraw && t.hasEvent e)

/-- CANCEL's result by the table of R44. -/
def cancelResult (removed heldRemoved pendingWithdrawn : Bool) : Result :=
  if removed || heldRemoved || pendingWithdrawn then .complete else .noEffect

/-- CANCEL of entry e but for its completion: the list side, and then the cancel request (R43, R44). The state it leaves,
and its result. -/
def State.carryCancel (s : State) (op : HostOp) (e : EntryNo) : State × Result :=
  let q := (s.disarm e).sendCancel op e
  (q.1, cancelResult ((s.entry e).timing == .armed) q.2.1 q.2.2)

/-- CANCEL (R43, R44). -/
def State.doCancel (s : State) (op : HostOp) (ph : OpPhase) : State :=
  match ph, s.checkDefined op, op.entry? with
  | .carriedOut r, _, _ => s.complete r
  | _, .complete, some e => (s.carryCancel op e).1.complete (s.carryCancel op e).2
  | _, r, _ => s.complete r

/-- The walk of CLEAR CLASS (R69): every member whose definition's class is c is removed. -/
def State.clearWalk (s : State) (c : ClassNo) : State :=
  (s.lc.dueList.filter fun e => (s.entry e).defn.cls == c).foldl State.removeDue s

/-- CLEAR CLASS of class c but for its completion: the walk, and then the clear request, which the dispatch unit takes after
the posts issued before it (R69, R70, R91). -/
def State.carryClear (s : State) (c : ClassNo) : State := (s.clearWalk c).takeAllPosts.takeClear c

/-- CLEAR CLASS (R69, R70). -/
def State.doClearClass (s : State) (op : HostOp) (ph : OpPhase) : State :=
  match ph, op.class? with
  | .carriedOut r, _ => s.complete r
  | _, none => s.complete .badField
  | _, some c => (s.carryClear c).complete .complete

/-- The load of SET TIME (R13). -/
def State.load (s : State) (n : Word) : State := { s with time := { s.time with count := n, phase := 0 } }

/-- The start of SET TIME (R71): the load, the shift of the full latches, the shift request, and ADJUSTING. -/
def State.doSetTime (s : State) (op : HostOp) : State :=
  let t := s.takeAllPosts
  let d := op.time - t.time.count
  let u := t.load op.time
  { u with
    du := u.du.shift d
    lc := { u.lc with latches := mapAll (Option.map (· + d)) u.lc.latches, work := .operation (.adjusting d) } }

/-- The walk of SET TIME for one member (R73). -/
def Entry.shift (d : Word) (en : Entry) : Entry := { en with due := en.due.map (· + d) }

/-- The walk of SET TIME over the whole due list (R73). -/
def State.shiftWalk (s : State) (d : Word) : State :=
  s.lc.dueList.foldl (fun t e => t.setEntry e ((t.entry e).shift d)) s

/-- The end of SET TIME (R73): the members are shifted, ADJUSTING clears, and the operation completes. -/
def State.doWalkCompletion (s : State) (ph : OpPhase) : State :=
  match ph with
  | .adjusting d => (s.shiftWalk d).complete .complete
  | _ => s

/-- CONFIGURE LINE's checks (R75). -/
def State.checkConfigureLine (s : State) (op : HostOp) : Result :=
  match op.lineConfig? with
  | none => .badField
  | some (_, cfg) =>
    match cfg.trigger with
    | some e => if (s.entry e).timing = .free then .linkToFree else .complete
    | none => .complete

/-- The line unit takes a configuration (R143): the four values together; counter and last level stay. -/
def State.takeLineConfig (s : State) (n : InLine) (cfg : LineConfig) : State :=
  { s with line := { s.line with ins := s.line.ins.set n { s.line.ins[n] with cfg := cfg } } }

/-- The line unit takes the configuration of an image that passed its checks. -/
def State.sendLineConfig (s : State) (op : HostOp) : State :=
  match op.lineConfig? with
  | none => s
  | some (n, cfg) => s.takeLineConfig n cfg

/-- CONFIGURE LINE (R75). -/
def State.doConfigureLine (s : State) (op : HostOp) (ph : OpPhase) : State :=
  match ph with
  | .carriedOut r => s.complete r
  | _ =>
    match s.checkConfigureLine op with
    | .complete => (s.sendLineConfig op).complete .complete
    | r => s.complete r

/-- The dispatch unit replaces a service limit (R116), after what is left of a tick. -/
def State.takeLimit (s : State) (c : ClassNo) (limit : Half) : State :=
  let t := s.finishTick
  { t with du := { t.du with limits := t.du.limits.set c limit } }

/-- CONFIGURE CLASS (R76). -/
def State.doConfigureClass (s : State) (op : HostOp) (ph : OpPhase) : State :=
  match ph, op.class? with
  | .carriedOut r, _ => s.complete r
  | _, none => s.complete .badField
  | _, some c => (s.takeLimit c op.limit).complete .complete

/-! ## Line unit: input side -/

/-- Replace an input line. -/
def State.setIn (s : State) (n : InLine) (i : InputLine) : State :=
  { s with line := { s.line with ins := s.line.ins.set n i } }

/-- A tick arrives at the line unit: every hold-off counter that is not 0 falls by one (R136). -/
def State.takeLineTick (s : State) : State :=
  { s with
    line := { s.line with
      ins := mapAll (fun i => { i with counter := if i.counter = 0 then 0 else i.counter - 1 }) s.line.ins }
    link := { s.link with ticksToLine := s.link.ticksToLine - 1 } }

/-- The edge select admits a change to this level (R135). -/
def EdgeSelect.admits (sel : EdgeSelect) (level : Bool) : Bool :=
  match sel with
  | .none => false
  | .rising => level
  | .falling => !level
  | .both => true

/-- A capture record is made (R139). -/
def State.capture (s : State) (r : CaptureRecord) : State :=
  if s.line.captures.length < Config.captureQueueSize then
    let t : State := { s with line := { s.line with captures := s.line.captures ++ [r] } }
    if s.line.captures.isEmpty then t.setCause .captureReady else t
  else s.setCause .captureLost

/-- The direction of a change to this level (R134). -/
def Edge.ofLevel (level : Bool) : Edge := if level then .rising else .falling

/-- A recognized edge on line n (R137): its record, its latch fill with the same count, and the hold-off. -/
def State.recognize (s : State) (n : InLine) (level : Bool) : State :=
  let i := s.line.ins[n]
  let t := s.setIn n { i with counter := i.cfg.holdOff }
  let u := if i.cfg.captureOn then
      t.capture { line := n, edge := .ofLevel level, count := s.time.count, phase := s.time.phase }
    else t
  if i.cfg.trigger.isSome then (u.fillLatch n s.time.count).wake else u

/-- A change of level on line n is taken (R134, R135). A level equal to the last one is no change. -/
def State.takeChange (s : State) (n : InLine) (level : Bool) : State :=
  let i := s.line.ins[n]
  if i.lastLevel = level then s
  else
    let t := s.setIn n { i with lastLevel := level }
    if i.cfg.edgeSelect.admits level && i.counter == 0 then t.recognize n level else t

/-- The level of a pin. -/
def State.setPin (s : State) (n : InLine) (level : Bool) : State := s.setIn n { s.line.ins[n] with pin := level }

/-- Negation of RESET*: each last level is taken from its pin (R134). -/
def State.negateReset (s : State) : State :=
  { s with
    win := { s.win with resetAsserted := false }
    line := { s.line with ins := mapAll (fun i => { i with lastLevel := i.pin }) s.line.ins } }

/-- A pop of the capture queue (R140). -/
def State.popCapture (s : State) : State := { s with line := { s.line with captures := s.line.captures.tail } }

/-! ## Miss log and alert unit: host writes -/

/-- A pop of the miss log (R150). -/
def State.popMiss (s : State) : State := { s with alert := { s.alert with missLog := s.alert.missLog.tail } }

/-- A write of ALERT CLEAR (R154). A cause that a tick already taken sets is set before the clear (R115). -/
def State.alertClear (s : State) (b : Byte) : State :=
  let t := s.finishTick
  { t with alert := { t.alert with causes := t.alert.causes &&& ~~~b } }

/-- A write of ALERT ENABLE (R156). -/
def State.alertEnable (s : State) (b : Byte) : State := { s with alert := { s.alert with enables := b } }

/-! ## Resets -/

/-- The list controller's part of clear-all (R34, R38, R68). -/
def ListController.cleared (c : ListController) : ListController :=
  { ListController.reset with opResult := if c.slot.isSome then .aborted else c.opResult }

/-- The dispatch unit's part of clear-all (R98, R99). -/
def DispatchUnit.cleared (u : DispatchUnit) : DispatchUnit :=
  { DispatchUnit.reset with classMask := u.classMask, enable := u.enable, limits := u.limits }

/-- The line unit's part of clear-all (R132, R146). -/
def LineUnit.cleared (l : LineUnit) : LineUnit :=
  { outs := mapAll (fun o => { o with holders := [] }) l.outs
    ins := mapAll (fun i => { i with cfg := { i.cfg with trigger := none }, counter := 0 }) l.ins
    captures := [] }

/-- The miss log and alert unit's part of clear-all (R159). -/
def AlertUnit.cleared (a : AlertUnit) : AlertUnit := { a with missLog := [], causes := 0 }

/-- A clear-all: one event of four blocks and the window (R165). The action requests issued before it are performed first
(R38, R132); the records of the post requests issued before it would be discarded by it, and so are the requests. -/
def State.clearAll (s : State) : State :=
  let t := s.performAll s.link.actions
  { t with
    lc := t.lc.cleared
    du := t.du.cleared
    line := t.line.cleared
    alert := t.alert.cleared
    win := { t.win with collision := false }
    link := { t.link with posts := [], actions := [] } }

/-- Assertion of RESET*: every block takes its hardware reset values (R1, R34, R38, R68, R98, R131, R145, R158, R173). The
pins of the input lines are the outside world's. -/
def State.hardwareReset (s : State) : State :=
  { State.reset with
    line := { LineUnit.reset with
      ins := mapAll (fun i => { InputLine.reset with pin := i.pin, lastLevel := i.lastLevel }) s.line.ins }
    win := { Window.reset with resetAsserted := true }
    pending := s.pending }

/-! ## Register window -/

/-- A write of CONTROL: each bit goes to its owner (R164). The records that a tick already taken withdraws reach the miss
log before a pop (R88, R150). -/
def State.control (s : State) (b : Byte) : State :=
  let r := s.finishTick
  let t := if b.getLsbD 2 then { r with win := { r.win with collision := false } } else r
  let u := if b.getLsbD 3 then t.popCapture else t
  let v := if b.getLsbD 4 then u.popMiss else u
  if b.getLsbD 1 then v.clearAll else { v with du := { v.du with enable := b.getLsbD 0 } }

/-- A write of CLASS MASK (R94), which comes before or after the whole of a tick (R114). -/
def State.writeMask (s : State) (b : Byte) : State :=
  let t := s.finishTick
  { t with du := { t.du with classMask := b } }

/-- A write of ENTRY SELECT (R166). -/
def State.writeEntrySelect (s : State) (b : Byte) : State := { s with win := { s.win with entrySelect := b } }

/-- A write of VIEW SELECT (R167). -/
def State.writeViewSelect (s : State) (b : Byte) : State :=
  { s with win := { s.win with viewSource := b.extractLsb' 5 3, viewIndex := b.extractLsb' 0 5 } }

/-- A write of STAGE POINTER (R166). -/
def State.writeStagePtr (s : State) (b : Byte) : State := { s with win := { s.win with stagePtr := b.extractLsb' 0 4 } }

/-- A write of STAGE DATA: the byte at the pointer, and then the pointer (R166). -/
def State.writeStage (s : State) (b : Byte) : State :=
  { s with win := { s.win with
    staging := s.win.staging.set s.win.stagePtr.toFin b
    stagePtr := s.win.stagePtr + 1 } }

/-- A read of STAGE DATA: the byte at the pointer, and then the pointer (R166). -/
def State.readStage (s : State) : State :=
  let t := s.drive s.stageByte
  { t with win := { t.win with stagePtr := s.win.stagePtr + 1 } }

/-- A read of VIEW DATA: the live byte, and then the index (R167). The live state is the one after the whole of a tick
that has been taken. -/
def State.readView (s : State) : State :=
  let t := s.finishTick
  let u := t.drive t.viewByte
  { u with win := { u.win with viewIndex := t.win.viewIndex + 1 } }

/-- A write cycle, routed by its address (R162). -/
def State.busWrite (s : State) (a : WinAddr) (b : Byte) : State :=
  match a.toNat with
  | 0x0 => s.control b
  | 0x1 => s.writeOperation b
  | 0x2 => s.writeEntrySelect b
  | 0x3 => s.writeStagePtr b
  | 0x4 => s.writeStage b
  | 0x5 => s.writeDone b
  | 0x6 => s.writeViewSelect b
  | 0x7 => s
  | 0x8 => s.writeMask b
  | 0x9 => s.alertClear b
  | 0xA => s.alertEnable b
  | 0xB => s.outputSet b
  | 0xC => s.outputClear b
  | 0xD => s.timeControl (b.getLsbD 0) (b.getLsbD 1)
  | 0xE => s.divisorLow b
  | _ => s.divisorHigh b

end Sys2Proof.Machine
end

