-- ==== Sys2Proof/Machine/Alerts.lean ====
section
/-! DEFINITION. The meanings of the host writes of the alert unit (chapter 9). -/

namespace Sys2Proof.Machine

/-- ALERT_CLEAR (R154). -/
def execAlertClear (b : Byte) (s : State) : Answer := live s fun s => s.alertClear b

/-- ALERT_ENABLE (R156). -/
def execAlertEnable (b : Byte) (s : State) : Answer := live s fun s => s.alertEnable b

end Sys2Proof.Machine
end

