-- ==== Sys2Proof/Machine/Dispatching.lean ====
section
/-! DEFINITION. The meanings of the dispatch unit's arrivals (chapters 5 and 6). -/

namespace Sys2Proof.Machine

/-- POST_REQUEST (R80): the dispatch unit takes the oldest post request issued. -/
def execPostRequest (s : State) : Answer := live s State.takeNextPost

/-- CANCEL_REQUEST (R90): the CANCEL in progress makes its list side and sends its request, which the dispatch unit takes
and answers; the controller has then only to complete (R43, R44). -/
def execCancelRequest (s : State) : Answer :=
  liveWork s fun s => s.onOperation .cancel fun op ph =>
    match ph, s.checkDefined op, op.entry? with
    | .started, .complete, some e => (s.carryCancel op e).1.setWork (.operation (.carriedOut (s.carryCancel op e).2))
    | _, _, _ => s

/-- CLEAR_REQUEST (R91): the CLEAR CLASS in progress makes its walk and sends its request, which the dispatch unit takes;
the controller has then only to complete (R69, R70). -/
def execClearRequest (s : State) : Answer :=
  liveWork s fun s => s.onOperation .clearClass fun op ph =>
    match ph, op.class? with
    | .started, some c => (s.carryClear c).setWork (.operation (.carriedOut .complete))
    | _, _ => s

/-- The entry whose presence the operation in progress asks for, when it has come so far in its checks: DEFINE of an entry
not ARMED, RELEASE of an IDLE entry, READ STATE of any entry (R25, R29, R32). -/
def State.queryTarget (s : State) : Option EntryNo :=
  match s.lc.slot, s.lc.work with
  | some op, .operation .started =>
    match OpName.ofCode op.code, op.entry? with
    | some .define, some e => if (s.entry e).timing = .armed then none else some e
    | some .release, some e => if (s.entry e).timing = .idle then some e else none
    | some .readState, some e => some e
    | _, _ => none
  | _, _ => none

/-- PRESENCE_QUERY (R93): the dispatch unit answers the query of the operation in progress, after the posts issued before
it (R23). Its own state does not change by the answer, which the controller keeps. -/
def execPresenceQuery (s : State) : Answer :=
  liveWork s fun s =>
    match s.queryTarget with
    | some e =>
      let t := s.takeAllPosts
      t.setWork (.operation (.presence (t.presence e)))
    | none => s

/-- SERVICE_LIMIT_REPLACEMENT (R116): the dispatch unit takes the limit of the CONFIGURE CLASS in progress. -/
def execServiceLimitReplacement (s : State) : Answer :=
  liveWork s fun s => s.onOperation .configureClass fun op ph =>
    match ph, op.class? with
    | .started, some c => (s.takeLimit c op.limit).setWork (.operation (.carriedOut .complete))
    | _, _ => s

/-- ACKNOWLEDGE (R102 to R104): a read of VECTOR. -/
def execAcknowledge (s : State) : Answer := live s State.readVector

/-- DONE (R110, R111): a write of DONE. -/
def execDone (b : Byte) (s : State) : Answer := live s fun s => s.writeDone b

/-- CLASS_MASK (R94): a write of CLASS MASK. -/
def execClassMask (b : Byte) (s : State) : Answer := live s fun s => s.writeMask b

end Sys2Proof.Machine
end

