-- ==== Sys2Proof/Machine/HostOperations.lean ====
section
/-! DEFINITION. The meanings of the host operations (chapters 2 to 4). Each acts when the operation in progress is its
own; otherwise the list controller has no such piece of work in hand, and nothing happens. -/

namespace Sys2Proof.Machine

/-- OPERATION (R62, R64): the host write that fills the slot or is refused with COLLISION. -/
def execOperation (code : Byte) (s : State) : Answer := live s fun s => s.writeOperation code

/-- DEFINE (R25 to R28). -/
def execDefine (s : State) : Answer := liveWork s fun s => s.onOperation .define fun op ph => s.doDefine op ph

/-- RELEASE (R29, R30). -/
def execRelease (s : State) : Answer := liveWork s fun s => s.onOperation .release fun op ph => s.doRelease op ph

/-- READ DEFINITION (R31). -/
def execReadDefinition (s : State) : Answer :=
  liveWork s fun s => s.onOperation .readDefinition fun op _ => s.doReadDefinition op

/-- READ STATE (R32, R33). -/
def execReadState (s : State) : Answer := liveWork s fun s => s.onOperation .readState fun op ph => s.doReadState op ph

/-- ARM (R40): due time current count plus the entry's delay. -/
def execArm (span : Span) (s : State) : Answer :=
  liveWork s fun s => s.onOperation .arm fun op ph =>
    s.doArm op ph span (s.checkDefined op) fun e => s.time.count + (s.entry e).defn.delay

/-- ARM AT (R41): the due time of the image. -/
def execArmAt (span : Span) (s : State) : Answer :=
  liveWork s fun s => s.onOperation .armAt fun op ph => s.doArm op ph span (s.checkArmAt op) fun _ => op.time

/-- CANCEL (R43, R44). -/
def execCancel (s : State) : Answer := liveWork s fun s => s.onOperation .cancel fun op ph => s.doCancel op ph

/-- CLEAR CLASS (R69, R70). -/
def execClearClass (s : State) : Answer := liveWork s fun s => s.onOperation .clearClass fun op ph => s.doClearClass op ph

/-- SET TIME, its start (R71). -/
def execSetTime (s : State) : Answer :=
  liveWork s fun s => s.onOperation .setTime fun op ph => if ph = .started then s.doSetTime op else s

/-- SET TIME, the end of its walk (R73). -/
def execSetTimeWalkCompletion (s : State) : Answer :=
  liveWork s fun s => s.onOperation .setTime fun _ ph => s.doWalkCompletion ph

/-- CONFIGURE LINE (R75). -/
def execConfigureLine (s : State) : Answer :=
  liveWork s fun s => s.onOperation .configureLine fun op ph => s.doConfigureLine op ph

/-- CONFIGURE CLASS (R76). -/
def execConfigureClass (s : State) : Answer :=
  liveWork s fun s => s.onOperation .configureClass fun op ph => s.doConfigureClass op ph

/-- UNKNOWN OPERATION (R65): the operation in progress has a code that names none. -/
def execUnknownOperation (s : State) : Answer :=
  liveWork s fun s =>
    match s.lc.slot, s.lc.work with
    | some op, .operation _ => if OpName.ofCode op.code = none then s.complete .unknownOperation else s
    | _, _ => s

end Sys2Proof.Machine
end

