-- ==== Sys2Proof/Machine/HostWindow.lean ====
section
/-! DEFINITION. The meanings of the commands of the register window: CONTROL, staging, views, and RESET* (chapter 10). The
five rows of CONTROL are one bus write, and each carries the whole written byte: R164 hands every bit to its owner, and
the value bit ENABLE goes with each of them. -/

namespace Sys2Proof.Machine

/-- ENABLE (R96): a CONTROL write with CLEAR ALL 0. -/
def execEnable (b : Byte) (s : State) : Answer := live s fun s => s.control b

/-- CLEAR_ALL (R165): a CONTROL write with CLEAR ALL 1. -/
def execClearAll (b : Byte) (s : State) : Answer := live s fun s => s.control b

/-- CLEAR_COLLISION (R64): a CONTROL write with CLEAR COLLISION 1. -/
def execClearCollision (b : Byte) (s : State) : Answer := live s fun s => s.control b

/-- POP_CAPTURE (R140): a CONTROL write with POP CAPTURE 1. -/
def execPopCapture (b : Byte) (s : State) : Answer := live s fun s => s.control b

/-- POP_MISS (R150): a CONTROL write with POP MISS 1. -/
def execPopMiss (b : Byte) (s : State) : Answer := live s fun s => s.control b

/-- STAGE_POINTER (R166). -/
def execStagePointer (b : Byte) (s : State) : Answer := live s fun s => s.writeStagePtr b

/-- STAGE_DATA_WRITE (R166). -/
def execStageDataWrite (b : Byte) (s : State) : Answer := live s fun s => s.writeStage b

/-- STAGE_DATA_READ (R166). -/
def execStageDataRead (s : State) : Answer := live s State.readStage

/-- VIEW_DATA (R167): a read of VIEW DATA. -/
def execViewData (s : State) : Answer := live s State.readView

/-- REGISTER_WRITE (R162): a write cycle to ENTRY SELECT, VIEW SELECT or 07H. A write to any other address has the effect
that R162 routes it to. -/
def execRegisterWrite (a : WinAddr) (b : Byte) (s : State) : Answer := live s fun s => s.busWrite a b

/-- HARDWARE_RESET (R173): RESET* is asserted, whatever the state. -/
def execHardwareReset (s : State) : Answer := .next s.hardwareReset

/-- RESET_NEGATION (R134, R145): RESET* is negated; it has an effect only while RESET* is asserted. -/
def execResetNegation (s : State) : Answer := .next (if s.win.resetAsserted then s.negateReset else s)

end Sys2Proof.Machine
end

