-- ==== Sys2Proof/Machine/Lines.lean ====
section
/-! DEFINITION. The meanings of the line unit's arrivals (chapters 7 and 8). -/

namespace Sys2Proof.Machine

/-- ACTION_REQUEST (R123): the line unit takes the oldest action request issued. -/
def execActionRequest (s : State) : Answer := live s State.takeNextAction

/-- LINE_CONFIGURATION (R143): the line unit takes the configuration of the CONFIGURE LINE in progress, when its checks
pass. -/
def execLineConfiguration (s : State) : Answer :=
  liveWork s fun s => s.onOperation .configureLine fun op ph =>
    match ph, s.checkConfigureLine op with
    | .started, .complete => (s.sendLineConfig op).setWork (.operation (.carriedOut .complete))
    | _, _ => s

/-- LEVEL_CHANGE (R135): the level of a pin. While RESET* is asserted the pin moves and is not examined (R145). -/
def execLevelChange (n : InLine) (level : Bool) (s : State) : Answer :=
  live (s.setPin n level) fun s => s.takeChange n level

/-- OUTPUT_SET (R128). -/
def execOutputSet (b : Byte) (s : State) : Answer := live s fun s => s.outputSet b

/-- OUTPUT_CLEAR (R128). -/
def execOutputClear (b : Byte) (s : State) : Answer := live s fun s => s.outputClear b

end Sys2Proof.Machine
end

