-- ==== Sys2Proof/Machine/ListController.lean ====
section
/-! DEFINITION. The meanings of the list controller's own work: due processing and latch service (chapter 3). -/

namespace Sys2Proof.Machine

/-- DUE_PROCESSING_RUN (R47): the run that the arbiter has taken starts. -/
def execDueProcessingRun (s : State) : Answer :=
  liveWork s fun s => if s.lc.work = .run none then s.startRun else s

/-- RUN_NEXT_EXPIRY (R47): a run under way takes its next expiry, or ends where no head is due at its limit. -/
def execRunNextExpiry (s : State) : Answer :=
  liveWork s fun s =>
    match s.lc.work with
    | .run (some limit) => s.runExpiry limit
    | _ => s

/-- TRIGGER_ARM (R56, R57): the latch that the arbiter has taken is served. -/
def execTriggerArm (s : State) : Answer :=
  liveWork s fun s =>
    match s.lc.work with
    | .latch n => (s.serveLatch n).setWork .latchServed
    | _ => s

end Sys2Proof.Machine
end

