-- ==== Sys2Proof/Machine/TimeBase.lean ====
section
/-! DEFINITION. The meanings of the commands of the time base (chapter 1) and of the tick arrivals (R7). -/

namespace Sys2Proof.Machine

/-- TBCLK_EDGE (R2): a counted edge advances the phase, or completes the interval and makes the tick. -/
def execTbclkEdge (s : State) : Answer := live s State.tbclk

/-- TICK (R3): the edge that completes the interval in progress. It arrives only while RUN is 1 and the interval has one
edge to go; otherwise there is no such edge, and nothing happens. -/
def execTick (s : State) : Answer := live s fun s => if s.time.run && s.time.lastEdge then s.makeTick else s

/-- LIST_CONTROLLER_TICK (R46): a tick handed over (R7) arrives; without one there is no arrival. -/
def execListControllerTick (s : State) : Answer :=
  live s fun s => if s.link.ticksToList = 0 then s else s.takeListTick

/-- DISPATCH_TICK (R87, R114): a tick handed over (R7) arrives; without one there is no arrival. -/
def execDispatchTick (s : State) : Answer :=
  live s fun s => if s.link.ticksToDispatch = 0 then s else s.takeDispatchTick

/-- STALE_WITHDRAWAL (R88): the withdrawals of the tick taken, if they are still to make. -/
def execStaleWithdrawal (s : State) : Answer := live s State.finishStale

/-- SERVICE_OVERRUN (R115): the check of the tick taken, if it is still to make. -/
def execServiceOverrun (s : State) : Answer := live s State.finishOverrun

/-- LINE_UNIT_TICK (R136): a tick handed over (R7) arrives; without one there is no arrival. -/
def execLineUnitTick (s : State) : Answer := live s fun s => if s.link.ticksToLine = 0 then s else s.takeLineTick

/-- DIVISOR_LOW (R5). -/
def execDivisorLow (b : Byte) (s : State) : Answer := live s fun s => s.divisorLow b

/-- DIVISOR_HIGH (R5). -/
def execDivisorHigh (b : Byte) (s : State) : Answer := live s fun s => s.divisorHigh b

/-- RUN_START (R10). -/
def execRunStart (s : State) : Answer := live s fun s => s.timeControl true false

/-- RUN_STOP (R10). -/
def execRunStop (s : State) : Answer := live s fun s => s.timeControl false false

/-- CAPTURE (R11). -/
def execCapture (run : Bool) (s : State) : Answer := live s fun s => s.timeControl run true

end Sys2Proof.Machine
end

