-- ==== Sys2Proof/Machine/Dispatch.lean ====
section
/-! DEFINITION. One arm per command of Instr, in the order of spec/opcode_table.json: one direct call of its meaning. -/

namespace Sys2Proof.Machine

/-- What a command does to everything but the queue of commands. -/
def exec (i : Instr) (s : State) : Host.Outcome State Fault Refusal :=
  match i with
  | .tbclkEdge => Sys2Proof.Machine.execTbclkEdge s
  | .tick => Sys2Proof.Machine.execTick s
  | .listControllerTick => Sys2Proof.Machine.execListControllerTick s
  | .dispatchTick => Sys2Proof.Machine.execDispatchTick s
  | .staleWithdrawal => Sys2Proof.Machine.execStaleWithdrawal s
  | .serviceOverrun => Sys2Proof.Machine.execServiceOverrun s
  | .lineUnitTick => Sys2Proof.Machine.execLineUnitTick s
  | .divisorLow b => Sys2Proof.Machine.execDivisorLow b s
  | .divisorHigh b => Sys2Proof.Machine.execDivisorHigh b s
  | .runStart => Sys2Proof.Machine.execRunStart s
  | .runStop => Sys2Proof.Machine.execRunStop s
  | .capture run => Sys2Proof.Machine.execCapture run s
  | .operation code => Sys2Proof.Machine.execOperation code s
  | .define => Sys2Proof.Machine.execDefine s
  | .release => Sys2Proof.Machine.execRelease s
  | .readDefinition => Sys2Proof.Machine.execReadDefinition s
  | .readState => Sys2Proof.Machine.execReadState s
  | .arm span => Sys2Proof.Machine.execArm span s
  | .armAt span => Sys2Proof.Machine.execArmAt span s
  | .cancel => Sys2Proof.Machine.execCancel s
  | .clearClass => Sys2Proof.Machine.execClearClass s
  | .setTime => Sys2Proof.Machine.execSetTime s
  | .setTimeWalkCompletion => Sys2Proof.Machine.execSetTimeWalkCompletion s
  | .configureLine => Sys2Proof.Machine.execConfigureLine s
  | .configureClass => Sys2Proof.Machine.execConfigureClass s
  | .unknownOperation => Sys2Proof.Machine.execUnknownOperation s
  | .dueProcessingRun => Sys2Proof.Machine.execDueProcessingRun s
  | .triggerArm => Sys2Proof.Machine.execTriggerArm s
  | .postRequest => Sys2Proof.Machine.execPostRequest s
  | .cancelRequest => Sys2Proof.Machine.execCancelRequest s
  | .clearRequest => Sys2Proof.Machine.execClearRequest s
  | .presenceQuery => Sys2Proof.Machine.execPresenceQuery s
  | .serviceLimitReplacement => Sys2Proof.Machine.execServiceLimitReplacement s
  | .acknowledge => Sys2Proof.Machine.execAcknowledge s
  | .done b => Sys2Proof.Machine.execDone b s
  | .actionRequest => Sys2Proof.Machine.execActionRequest s
  | .lineConfiguration => Sys2Proof.Machine.execLineConfiguration s
  | .levelChange line level => Sys2Proof.Machine.execLevelChange line level s
  | .enable control => Sys2Proof.Machine.execEnable control s
  | .clearAll control => Sys2Proof.Machine.execClearAll control s
  | .clearCollision control => Sys2Proof.Machine.execClearCollision control s
  | .popCapture control => Sys2Proof.Machine.execPopCapture control s
  | .popMiss control => Sys2Proof.Machine.execPopMiss control s
  | .classMask b => Sys2Proof.Machine.execClassMask b s
  | .alertClear b => Sys2Proof.Machine.execAlertClear b s
  | .alertEnable b => Sys2Proof.Machine.execAlertEnable b s
  | .outputSet b => Sys2Proof.Machine.execOutputSet b s
  | .outputClear b => Sys2Proof.Machine.execOutputClear b s
  | .stagePointer b => Sys2Proof.Machine.execStagePointer b s
  | .stageDataWrite b => Sys2Proof.Machine.execStageDataWrite b s
  | .stageDataRead => Sys2Proof.Machine.execStageDataRead s
  | .viewData => Sys2Proof.Machine.execViewData s
  | .registerWrite addr b => Sys2Proof.Machine.execRegisterWrite addr b s
  | .hardwareReset => Sys2Proof.Machine.execHardwareReset s
  | .resetNegation => Sys2Proof.Machine.execResetNegation s
  | .runNextExpiry => Sys2Proof.Machine.execRunNextExpiry s

end Sys2Proof.Machine
end

