-- ==== Sys2Proof/Machine/Signals.lean ====
section
/-! DEFINITION. What the outside sees without a command: the pins INT*, ALERT* and OUT0 to OUT7, and the bytes of the reads
that change nothing. All of it is read off the state after the whole of a tick that the dispatch unit has taken (R77, R87,
R125), so a state between the rows of one tick shows what the end of that tick shows (DESIGN CHOICE, log entry 8). -/

namespace Sys2Proof.Machine

/-- INT* is asserted while ENABLE is 1 and some class is eligible (R96). -/
def State.intAsserted (s : State) : Bool := s.finishTick.serviceWanted

/-- ALERT* is asserted while at least one cause is both set and enabled (R156). -/
def State.alertAsserted (s : State) : Bool := s.finishTick.causeEnabled

/-- The level on the pin of an output line (R122, R125). -/
def State.outPin (s : State) (l : OutLine) : Bool := (s.finishTick.line.outs[l]).level

/-- The STATUS byte (R163). -/
def State.status (s : State) : Byte :=
  byteOfFlags s.du.enable s.busy s.win.collision s.adjusting s.time.run s.intAsserted s.alertAsserted
    (!s.du.stack.isEmpty)

/-- The byte at an address of the window (R162, R163, R166, R167, R172), of a state with no tick half taken. -/
def State.byteAt (s : State) (a : WinAddr) : Byte :=
  match a.toNat with
  | 0x0 => s.status
  | 0x1 => s.lc.opResult.code
  | 0x2 => s.win.entrySelect
  | 0x3 => s.win.stagePtr.setWidth 8
  | 0x4 => s.stageByte
  | 0x5 => s.vectorValue
  | 0x6 => s.win.viewSource ++ s.win.viewIndex
  | 0x7 => s.viewByte
  | 0x8 => s.du.classMask
  | 0x9 => s.alert.causes
  | 0xA => s.alert.enables
  | 0xB => s.outputLevels
  | 0xC => s.inputLevels
  | 0xD => byteOfFlags s.time.run false false false false false false false
  | 0xE => s.time.stagedDivisor.extractLsb' 0 8
  | _ => s.time.stagedDivisor.extractLsb' 8 8

/-- The byte that a read cycle drives on D0 to D7; none while RESET* is asserted, when the cycle is ignored and D0 to D7 are
not driven (R161, R173). The reads with an effect are the commands ACKNOWLEDGE, STAGE_DATA_READ and VIEW_DATA; the other
reads change nothing and have no row in the table (log entry 16). -/
def State.busRead (s : State) (a : WinAddr) : Option Byte :=
  if s.win.resetAsserted then none else some (s.finishTick.byteAt a)

end Sys2Proof.Machine
end

