-- ==== Sys2Proof/Safety.lean ====
section
/-! DEFINITION. What the spec says holds at every moment of the machine, as predicates on one state, and the words that the
statements share. -/

namespace Sys2Proof.Machine

/-! ## Laws of the machine that every step keeps -/

/-- The phase stays below the effective divisor (R4). -/
def PhaseLaw (s : State) : Prop := s.time.phase.toNat < effectiveDivisor s.time.activeDivisor

/-- The bounds of the queues: the pool and the held queue (R78, R82, R84), the in-service stack with its strictly
decreasing classes (R101), the capture queue (R139) and the miss log (R149). -/
structure QueueLaw (s : State) : Prop where
  pool_bound : s.du.pool.length ≤ Config.poolSlots
  held_bound : s.du.held.length ≤ Config.poolSlots
  held_only_when_full : s.du.held ≠ [] → s.du.pool.length = Config.poolSlots
  stack_bound : s.du.stack.length ≤ Config.stackDepth
  stack_order : s.du.stack.Pairwise fun upper lower => upper.cls < lower.cls
  captures_bound : s.line.captures.length ≤ Config.captureQueueSize
  miss_bound : s.alert.missLog.length ≤ Config.missLogSize

/-- The due list and the timing states (R21, R22, R34, R35): the list holds every ARMED entry exactly once and no other;
exactly the ARMED entries have a due time; remaining is 0 outside the list; a FREE entry has the cleared values. -/
structure DueLaw (s : State) : Prop where
  once : s.lc.dueList.Nodup
  exactly_armed : ∀ e, e ∈ s.lc.dueList ↔ (s.entry e).timing = .armed
  due_iff_armed : ∀ e, (s.entry e).due.isSome ↔ (s.entry e).timing = .armed
  remaining_zero : ∀ e, (s.entry e).timing ≠ .armed → (s.entry e).remaining = 0
  free_cleared : ∀ e, (s.entry e).timing = .free → s.entry e = .free

/-- Every definition is one that DEFINE can write (R16 to R20, R25). -/
def DefinitionLaw (s : State) : Prop := ∀ e, (s.entry e).timing ≠ .free → (s.entry e).defn.legal = true

/-- No follow-on of a defined entry and no trigger names a FREE entry (R24). -/
structure ReferenceLaw (s : State) : Prop where
  follow_on : ∀ e f, (s.entry e).timing ≠ .free → (s.entry e).defn.followOn = some f → (s.entry f).timing ≠ .free
  trigger : ∀ n x, s.trigger n = some x → (s.entry x).timing ≠ .free

/-- The pulse line of a definition: the line of its action when that is PULSE (R17). -/
def Definition.pulseLine (d : Definition) : Option OutLine :=
  match d.output with
  | some o => if o.act = .pulse then some o.line else none
  | none => none

/-- What a record or a post request carries matches the definition of its entry, which is not FREE (R23, R28, R79). -/
def State.matchesDefinition (s : State) (e : EntryNo) (c : ClassNo) (l : Option OutLine) : Prop :=
  (s.entry e).timing ≠ .free ∧ (s.entry e).defn.cls = c ∧ (s.entry e).defn.pulseLine = l

/-- The pulses among the action requests under way. -/
def ActionReq.pulse? : ActionReq → Option (OutLine × EntryNo)
  | .pulse l e => some (l, e)
  | _ => none

/-- The pulse that goes with a post request under way. -/
def PostReq.pulse? (p : PostReq) : Option (OutLine × EntryNo) := p.pulseLine.map fun l => (l, p.entry)

/-- The records of the dispatch unit (R23, R28, R80): the pool and the held queue hold at most one record of any entry
between them, and the stack at most one; each record and each post request under way matches its entry's definition; the
PULSE requests under way go in pairs (R124); and while DEFINE, RELEASE or READ STATE works from a presence answer no post
request is under way, and an entry answered to have no events has none. -/
structure RecordLaw (s : State) : Prop where
  waiting_once : ((s.du.pool ++ s.du.held).map Record.entry).Nodup
  service_once : (s.du.stack.map ServiceRecord.entry).Nodup
  waiting_matches : ∀ r ∈ s.du.pool ++ s.du.held, s.matchesDefinition r.entry r.cls r.pulseLine
  service_matches : ∀ r ∈ s.du.stack, s.matchesDefinition r.entry r.cls r.pulseLine
  posts_match : ∀ p ∈ s.link.posts, s.matchesDefinition p.entry p.cls p.pulseLine
  pulses_paired : s.link.actions.filterMap ActionReq.pulse? = s.link.posts.filterMap PostReq.pulse?
  answer_posts : ∀ p, s.lc.work = .operation (.presence p) → s.link.posts = []
  answer_holds : ∀ p op e, s.lc.work = .operation (.presence p) → s.lc.slot = some op → op.entry? = some e →
    p.any = false → s.hasRecord e = false

/-- The holder sets are in their canonical form, and an entry in line L's holder set has a record whose pulse line is L
(R122, R126). -/
structure HolderLaw (s : State) : Prop where
  canonical : ∀ l : OutLine, (s.line.outs[l]).holders.Pairwise (· < ·)
  has_record : ∀ (l : OutLine) e, e ∈ (s.line.outs[l]).holders →
    (∃ r ∈ s.du.pool ++ s.du.held, r.entry = e ∧ r.pulseLine = some l) ∨
    (∃ r ∈ s.du.stack, r.entry = e ∧ r.pulseLine = some l)

/-- The limits of a limited periodic entry's run: while it is ARMED, its remaining is 1 to its repeat limit (R22). -/
def RemainingLaw (s : State) : Prop :=
  ∀ e, (s.entry e).timing = .armed → (s.entry e).defn.period.isSome → (s.entry e).defn.repeatLimit ≠ 0 →
    1 ≤ (s.entry e).remaining.toNat ∧ (s.entry e).remaining.toNat ≤ (s.entry e).defn.repeatLimit.toNat

/-- The phases that an operation can be in: a presence answer belongs to DEFINE, RELEASE and READ STATE, and ADJUSTING
to SET TIME. -/
def OpPhase.fits (ph : OpPhase) (n : Option OpName) : Prop :=
  match ph with
  | .presence _ => n = some .define ∨ n = some .release ∨ n = some .readState
  | .adjusting _ => n = some .setTime
  | .started | .carriedOut _ => True

/-- What the list controller has in hand (R47, R56, R59, R60, R62): at rest nothing waits for it; a run taken is owed; a
latch taken is full; an operation in progress stands in the slot; and how far it has come fits the operation (R23, R44, R70,
R73). -/
structure ControllerLaw (s : State) : Prop where
  rest_nothing_waits : s.lc.work = .rest → s.lc.owed = false ∧ (∀ n : InLine, s.lc.latches[n] = none) ∧ s.lc.slot = none
  run_is_owed : s.lc.work = .run none → s.lc.owed = true
  latch_is_full : ∀ n : InLine, s.lc.work = .latch n → (s.lc.latches[n]).isSome
  operation_in_slot : ∀ ph, s.lc.work = .operation ph → s.lc.slot.isSome
  phase_fits : ∀ ph op, s.lc.work = .operation ph → s.lc.slot = some op → ph.fits (OpName.ofCode op.code)

/-- The count against which the due list stands in order: the current count, and during the walk of SET TIME, whose members
are still to be shifted by d, the count on the old basis (R35, R73). -/
def State.dueOrigin (s : State) : Word :=
  match s.lc.work with
  | .operation (.adjusting d) => s.time.count - d
  | _ => s.time.count

/-- The distance of a member of the due list (R35). -/
def State.distanceOf (s : State) (e : EntryNo) : Int := signedDiff (s.dueOf e) s.dueOrigin

/-- The due list stands in order of distance (R35). -/
def State.DueOrder (s : State) : Prop := s.lc.dueList.Pairwise fun a b => s.distanceOf a ≤ s.distanceOf b

/-- While RESET* is asserted every block holds its hardware reset values (R1, R34, R38, R98, R131, R145, R158, R173). -/
def ResetLaw (s : State) : Prop := s.win.resetAsserted = true → s = s.hardwareReset

/-- All the laws together. -/
structure MachineLaw (s : State) : Prop where
  phase : PhaseLaw s
  queues : QueueLaw s
  due : DueLaw s
  definitions : DefinitionLaw s
  references : ReferenceLaw s
  records : RecordLaw s
  holders : HolderLaw s
  remaining : RemainingLaw s
  controller : ControllerLaw s
  reset : ResetLaw s

/-- Every step keeps a law. -/
def StepKeeps (P : State → Prop) : Prop := ∀ s t, P s → step s = .next t → P t

/-! ## Words the statements share -/

/-- RESET* stands negated: commands are taken. -/
def State.Live (s : State) : Prop := s.win.resetAsserted = false

/-- Operation n is IN PROGRESS, with what the slot holds and how far it has come (R62). -/
def State.Carries (s : State) (n : OpName) (op : HostOp) (ph : OpPhase) : Prop :=
  s.lc.slot = some op ∧ OpName.ofCode op.code = some n ∧ s.lc.work = .operation ph

/-- The entry select copy names entry e (R15). -/
def HostOp.Names (op : HostOp) (e : EntryNo) : Prop := op.entrySelect.toNat = e.val

/-- The entry select copy names no entry: 64 to 255 (R15). -/
def HostOp.NamesNone (op : HostOp) : Prop := 64 ≤ op.entrySelect.toNat

/-- The presence p that an operation on entry e works from, and the state q it goes on in: the answer it has had, or the
one it gets now, when every post request issued before has been taken (R23, R28). -/
def State.Queried (s : State) (ph : OpPhase) (e : EntryNo) (q : State) (p : Presence) : Prop :=
  (ph = .presence p ∧ q = s) ∨ (ph = .started ∧ q = s.takeAllPosts ∧ p = q.presence e)

/-- A definition stands in an image in the layout of R169, byte by byte. -/
structure Definition.InLayout (d : Definition) (i : Image) : Prop where
  byte0 : i[0].toNat = d.cls.val + (if d.delivery = .post then 8 else 0) + (if d.policy = .restart then 16 else 0)
  byte1 : i[1].toNat = match d.output with
    | none => 0
    | some o => (match o.act with | .set => 1 | .clear => 2 | .toggle => 3 | .pulse => 4) + 16 * o.line.val
  delay : i[5] ++ i[4] ++ i[3] ++ i[2] = d.delay
  period : i[9] ++ i[8] ++ i[7] ++ i[6] = d.period.getD 0
  repeatLimit : i[11] ++ i[10] = d.repeatLimit
  followOn : i[12].toNat = match d.followOn with | none => 255 | some f => f.val
  staleLimit : i[14] ++ i[13] = d.staleLimit
  byte15 : i[15] = 0

/-- The state with another entry table and due list, and nothing else changed. -/
def State.withList (s : State) (entries : Vector Entry 64) (dueList : List EntryNo) : State :=
  { s with lc := { s.lc with entries := entries, dueList := dueList } }

/-- Miss records that arrive in order at a log: as many as it has room for join (R149). -/
def logAfter (log new : List MissRecord) : List MissRecord := log ++ new.take (Config.missLogSize - log.length)

/-- A set of causes with one cause set (R153). -/
def withCause (causes : Byte) (c : Cause) : Byte := causes ||| (1 <<< c.bit)

/-- The causes after an event that does or does not send a set request. -/
def causeIf (b : Bool) (causes : Byte) (c : Cause) : Byte := if b then withCause causes c else causes

/-- The pool and the held queue hold at most one record of any entry between them (R80). -/
def State.WaitingOnce (s : State) : Prop := ((s.du.pool ++ s.du.held).map Record.entry).Nodup

/-- What one event leaves that withdraws these held records and these pool events, in this order (R84 to R86, R125): the
freed slots go to the held records that stay, the miss records join the log while it has room, MISS LOST is set if one does
not, and an entry stops holding the line of its record unless another record of it remains. -/
def State.withdrawn (s : State) (reason : MissReason) (goneHeld gonePool : List Record) : State :=
  let gone := goneHeld ++ gonePool
  let waiting := s.du.held.filter fun r => r ∉ goneHeld
  let pool := (s.du.pool.filter fun r => r ∉ gonePool) ++ waiting.take gonePool.length
  let held := waiting.drop gonePool.length
  let remains (e : EntryNo) := (pool ++ held).any (fun r => r.entry = e) || s.du.stack.any (fun r => r.entry = e)
  { s with
    du := { s.du with pool := pool, held := held }
    alert := { s.alert with
      missLog := logAfter s.alert.missLog (gone.map fun r => r.miss reason)
      causes := causeIf (decide (Config.missLogSize < s.alert.missLog.length + gone.length)) s.alert.causes .missLost }
    line := { s.line with outs := s.line.outs.mapFinIdx fun i o h =>
      { o with holders := o.holders.filter fun e =>
          !(gone.any (fun r => r.entry = e && r.pulseLine = some ⟨i, h⟩) && !remains e) } } }

/-- Byte i of view source k; 00H beyond the source's length (R167). -/
def State.viewAt (s : State) (k : BitVec 3) (i : Nat) : Byte := (s.view k)[i]?.getD 0

end Sys2Proof.Machine
end

