-- ==== Sys2Proof/Certificates/Slice0/Obligations.lean ====
section
/-! DEFINITION. The statements for the provers. Each docstring names the rules of spec/ it formalises. -/

open Sys2Proof Sys2Proof.Machine

/-! ## One step, and the queue of commands -/

/-- One step takes the command at the front of the queue: it answers what the command does to the state with the rest of
the queue in place. On an empty queue it answers the same state: the model's choice, log entry 2. -/
def Obligations.StepTakesFrontCommand : Prop :=
  (∀ (c : Instr) (rest : List Instr) (s : State), s.pending = c :: rest →
    step s = exec c { s with pending := rest }) ∧
  (∀ s : State, s.pending = [] → step s = .next s)

/-- Every command answers a next state, in every state, and leaves the queue as it is. That this holds too of an arrival
that cannot occur, of an ill-formed command and of a hardware reset is the model's choice: log entries 4, 5, 6, 17 and 18. -/
def Obligations.EveryCommandAnswersAndKeepsQueue : Prop :=
  ∀ (c : Instr) (s : State), ∃ t, exec c s = .next t ∧ t.pending = s.pending

/-- While RESET* is asserted no command changes anything, but the levels of the input pins, the negation of RESET*, and an
assertion of RESET* again; and a read does not drive D0 to D7 (R1, R131, R145, R158, R161, R173; log entry 18). -/
def Obligations.NothingIsTakenUnderReset : Prop :=
  (∀ (c : Instr) (s : State), s.win.resetAsserted = true →
    match c with
    | .levelChange n b => exec c s = .next (s.setPin n b)
    | .hardwareReset => exec c s = .next s.hardwareReset
    | .resetNegation => exec c s = .next s.negateReset
    | _ => exec c s = .next s) ∧
  (∀ (s : State) (a : WinAddr), s.win.resetAsserted = true → s.busRead a = none)

/-! ## Time base -/

/-- Writes of DIVISOR LOW and DIVISOR HIGH, and reads of them (R5). -/
def Obligations.DivisorWritesAndReads : Prop :=
  (∀ (s : State) (b : Byte), s.Live →
    exec (.divisorLow b) s = .next { s with time := { s.time with lowHold := b } } ∧
    exec (.divisorHigh b) s = .next { s with time := { s.time with stagedDivisor := b ++ s.time.lowHold } }) ∧
  (∀ s : State, s.Live → s.busRead 0xE = some (s.time.stagedDivisor.extractLsb' 0 8) ∧
    s.busRead 0xF = some (s.time.stagedDivisor.extractLsb' 8 8)) ∧
  (∀ b : Byte, ∃ t, exec (.divisorHigh b) State.reset = .next t ∧ t.time.stagedDivisor = b ++ (0#8 : Byte))

/-- Writes of TIME CONTROL: RUN and CAPTURE (R10, R11). The snapshot takes count and phase before the RUN effect; a start
sets the phase to 0; nothing else changes. -/
def Obligations.TimeControlWrites : Prop :=
  ∀ s : State, s.Live →
    exec .runStart s = .next { s with time := { s.time with run := true, phase := if s.time.run then s.time.phase else 0 } } ∧
    exec .runStop s = .next { s with time := { s.time with run := false } } ∧
    exec (.capture true) s = .next { s with time := { s.time with
      run := true, phase := if s.time.run then s.time.phase else 0,
      snapCount := s.time.count, snapPhase := s.time.phase } } ∧
    exec (.capture false) s = .next { s with time := { s.time with
      run := false, snapCount := s.time.count, snapPhase := s.time.phase } }

/-- A TBCLK edge, and a TICK: not counted while RUN is 0; the phase advances while the edge leaves it below the effective
divisor; else the edge completes the interval and makes the tick, which is handed to three blocks (R2, R3, R4, R7). TICK
is that last edge alone, and does nothing where there is no such edge: the model's choice, log entry 4. -/
def Obligations.EdgeAdvancesPhaseOrTicks : Prop :=
  ∀ s : State, s.Live →
    let eff := if s.time.activeDivisor = 0 then 65536 else s.time.activeDivisor.toNat
    let ticked : State := { s with
      time := { s.time with count := s.time.count + 1, phase := 0, activeDivisor := s.time.stagedDivisor }
      link := { s.link with
        ticksToList := s.link.ticksToList + 1, ticksToDispatch := s.link.ticksToDispatch + 1,
        ticksToLine := s.link.ticksToLine + 1 } }
    (s.time.run = false → exec .tbclkEdge s = .next s ∧ exec .tick s = .next s) ∧
    (s.time.run = true → s.time.phase.toNat + 1 < eff →
      exec .tbclkEdge s = .next { s with time := { s.time with phase := s.time.phase + 1 } } ∧ exec .tick s = .next s) ∧
    (s.time.run = true → eff ≤ s.time.phase.toNat + 1 →
      exec .tbclkEdge s = .next ticked ∧ exec .tick s = .next ticked)

/-- Every step keeps the phase below the effective divisor (R4). -/
def Obligations.PhaseStaysBelowDivisor : Prop := StepKeeps PhaseLaw

/-- The comparison of times (R9): the difference modulo 2³² read as a signed number, DUE, IN THE FUTURE, the time that is
neither, and an arm with a delay in range that always lies in the future. -/
def Obligations.TimesCompareBySignedDifference : Prop :=
  (∀ a b : Word, signedDiff a b = if (a - b).toNat < 2 ^ 31 then ((a - b).toNat : Int) else ((a - b).toNat : Int) - 2 ^ 32) ∧
  (∀ t n : Word, (isDue t n = true ↔ 0 ≤ signedDiff n t) ∧ (inFuture t n = true ↔ 1 ≤ signedDiff t n)) ∧
  (∀ t n : Word, (isDue t n = false ∧ inFuture t n = false) ↔ t = n + 0x80000000#32) ∧
  (∀ n d : Word, 1 ≤ d.toNat → d.toNat < 2 ^ 31 → inFuture (n + d) n = true)

/-- The time base is reached by its own commands, SET TIME, the writes routed to it and RESET* alone: every other command
leaves every item of it as it was, clear-all among them (R1, R8, R13, R165). -/
def Obligations.OthersLeaveTheTimeBase : Prop :=
  ∀ (c : Instr) (s t : State), exec c s = .next t →
    match c with
    | .tbclkEdge | .tick | .divisorLow _ | .divisorHigh _ | .runStart | .runStop | .capture _ | .setTime
    | .hardwareReset => True
    | .registerWrite a _ => a.toNat < 13 → t.time = s.time
    | _ => t.time = s.time

/-! ## Entry definitions -/

/-- The fourth check of DEFINE (R26) fails exactly in the six cases, and DEFINE then ends BAD FIELD, when the entry is named,
not ARMED and without events, and nothing is under way at the dispatch unit. -/
def Obligations.FormCheckIsTheSixCases : Prop :=
  let six (i : Image) : Prop :=
    (i[0].toNat / 32 ≠ 0 ∨ i[1].getLsbD 3 = true ∨ i[1].getLsbD 7 = true ∨ i[15] ≠ 0) ∨
    4 < i[1].toNat % 8 ∨
    (i[1].toNat % 8 = 0 ∧ i[1].toNat / 16 % 8 ≠ 0) ∨
    (64 ≤ i[12].toNat ∧ i[12].toNat ≠ 255) ∨
    (i[1].toNat % 8 = 4 ∧ i[0].getLsbD 3 = false) ∨
    (i[6] = 0 ∧ i[7] = 0 ∧ i[8] = 0 ∧ i[9] = 0 ∧ (i[10] ≠ 0 ∨ i[11] ≠ 0))
  (∀ i : Image, formOk i = false ↔ six i) ∧
  (∀ (s : State) (op : HostOp) (e : EntryNo), s.Live → s.Carries .define op .started → op.Names e →
    (s.entry e).timing ≠ .armed → (∀ r ∈ s.du.pool ++ s.du.held, r.entry ≠ e) → (∀ r ∈ s.du.stack, r.entry ≠ e) →
    s.link.posts = [] → s.du.staleOwed = false → s.du.overrunOwed = false → six op.image →
    exec .define s = .next (s.complete .badField))

/-- The DEFINE layout and its image agree (R31, R169): every definition that DEFINE can write comes back from the image
that READ DEFINITION writes, which passes the checks of form and range; and every image that passes them is the image of
the definition it spells. The definitions that DEFINE can write are those with a delay of 1 to 2³¹ − 1, a period that is
absent or 1 to 2³¹ − 1, POST for a PULSE, and a repeat limit of 0 without a period (R16 to R18, R26, R27). -/
def Obligations.DefinitionImageRoundTrip : Prop :=
  (∀ d : Definition, d.legal = true ↔
    (1 ≤ d.delay.toNat ∧ d.delay.toNat < 2 ^ 31) ∧
    (∀ p, d.period = some p → 1 ≤ p.toNat ∧ p.toNat < 2 ^ 31) ∧
    (∀ o, d.output = some o → o.act = .pulse → d.delivery = .post) ∧
    (d.period = none → d.repeatLimit = 0)) ∧
  (∀ d : Definition, d.legal = true →
    formOk (encodeDefinition d) = true ∧ delaysOk (decodeDefinition (encodeDefinition d)) = true ∧
    decodeDefinition (encodeDefinition d) = d) ∧
  (∀ i : Image, formOk i = true → delaysOk (decodeDefinition i) = true →
    (decodeDefinition i).legal = true ∧ encodeDefinition (decodeDefinition i) = i)

/-- DEFINE (R25 to R28): its six checks in order, each with its result, and the definition written whole when all pass: the
one that stands in the image byte by byte (R169). The fifth check (R27) refuses a delay of 0 or of 2³¹ or more, and a
period that is present and is 2³¹ or more; a period of 0 is absent and passes. Every other entry, and all
that the completion and the posts taken first (log entry 7) do not touch, stays. That an answer of the presence query may be
kept from a command before is log entry 13. -/
def Obligations.DefineMakesItsChecksInOrder : Prop :=
  ∀ (s : State) (op : HostOp) (ph : OpPhase), s.Live → s.Carries .define op ph →
    (op.NamesNone → exec .define s = .next (s.complete .badEntry)) ∧
    (∀ e, op.Names e → (s.entry e).timing = .armed → exec .define s = .next (s.complete .entryArmed)) ∧
    (∀ e q p, op.Names e → (s.entry e).timing ≠ .armed → s.Queried ph e q p →
      let d := decodeDefinition op.image
      let link := ∃ f, d.followOn = some f ∧ f ≠ e ∧ (s.entry f).timing = .free
      let badDelay := d.delay = 0 ∨ 2 ^ 31 ≤ d.delay.toNat ∨ ∃ w, d.period = some w ∧ 2 ^ 31 ≤ w.toNat
      (delaysOk d = false ↔ badDelay) ∧
      (formOk op.image = true → d.InLayout op.image ∧ d.period ≠ some 0) ∧
      (p.any = true → exec .define s = .next (q.complete .entryHasEvents)) ∧
      (p.any = false → formOk op.image = false → exec .define s = .next (q.complete .badField)) ∧
      (p.any = false → formOk op.image = true → badDelay → exec .define s = .next (q.complete .badDelay)) ∧
      (p.any = false → formOk op.image = true → ¬ badDelay → link →
        exec .define s = .next (q.complete .linkToFree)) ∧
      (p.any = false → formOk op.image = true → ¬ badDelay → ¬ link →
        exec .define s = .next
          ((q.setEntry e { timing := .idle, defn := d, due := none, remaining := 0, occurrence := 0 }).complete
            .complete)))

/-- RELEASE (R29, R30): its five checks in order, each with its result; when all pass the entry becomes FREE with the
cleared values. That the presence query comes after the posts issued before it is log entry 7, and that its answer may be
kept from a command before is log entry 13. -/
def Obligations.ReleaseMakesItsChecksInOrder : Prop :=
  ∀ (s : State) (op : HostOp) (ph : OpPhase), s.Live → s.Carries .release op ph →
    (op.NamesNone → exec .release s = .next (s.complete .badEntry)) ∧
    (∀ e, op.Names e → (s.entry e).timing = .free → exec .release s = .next (s.complete .entryFree)) ∧
    (∀ e, op.Names e → (s.entry e).timing = .armed → exec .release s = .next (s.complete .entryArmed)) ∧
    (∀ e q p, op.Names e → (s.entry e).timing = .idle → s.Queried ph e q p →
      let referenced := (∃ f, f ≠ e ∧ (s.entry f).timing ≠ .free ∧ (s.entry f).defn.followOn = some e) ∨
        ∃ n : InLine, (q.line.ins[n]).cfg.trigger = some e
      (p.any = true → exec .release s = .next (q.complete .entryHasEvents)) ∧
      (p.any = false → referenced → exec .release s = .next (q.complete .referenced)) ∧
      (p.any = false → ¬ referenced →
        exec .release s = .next ((q.setEntry e .free).complete .complete)))

/-- READ DEFINITION (R31): its checks, and the image of the definition in the staging buffer, byte by byte (R169). -/
def Obligations.ReadDefinitionWritesTheImage : Prop :=
  ∀ (s : State) (op : HostOp) (ph : OpPhase), s.Live → s.Carries .readDefinition op ph →
    (op.NamesNone → exec .readDefinition s = .next (s.complete .badEntry)) ∧
    (∀ e, op.Names e → (s.entry e).timing = .free → exec .readDefinition s = .next (s.complete .entryFree)) ∧
    (∀ e, op.Names e → (s.entry e).timing ≠ .free →
      ∃ i : Image, (s.entry e).defn.InLayout i ∧
        exec .readDefinition s = .next (({ s with win := { s.win with staging := i } } : State).complete .complete))

/-- READ STATE (R32, R33, R170): its check, and the bytes of its layout: timing state, presence flags, due time,
remaining, occurrence number, and zeros. That the presence query comes after the posts issued before it is log entry 7, and
that its answer may be kept from a command before is log entry 13. -/
def Obligations.ReadStateWritesTheLayout : Prop :=
  ∀ (s : State) (op : HostOp) (ph : OpPhase), s.Live → s.Carries .readState op ph →
    (op.NamesNone → exec .readState s = .next (s.complete .badEntry)) ∧
    (∀ e q p, op.Names e → s.Queried ph e q p →
      ∃ i : Image,
        exec .readState s = .next (({ q with win := { q.win with staging := i } } : State).complete .complete) ∧
        i[0] = (match (s.entry e).timing with | .free => 0 | .idle => 1 | .armed => 2) ∧
        i[1].toNat = p.pending.toNat + 2 * p.held.toNat + 4 * p.inService.toNat ∧
        i[5] ++ i[4] ++ i[3] ++ i[2] = (s.entry e).due.getD 0 ∧
        i[7] ++ i[6] = (s.entry e).remaining ∧
        i[9] ++ i[8] = (s.entry e).occurrence ∧
        i[10] = 0 ∧ i[11] = 0 ∧ i[12] = 0 ∧ i[13] = 0 ∧ i[14] = 0 ∧ i[15] = 0)

/-! ## Operation slot, arbiter, completion -/

/-- A write of OPERATION (R62, R64): accepted into an empty slot with copies of the staging buffer and the entry select,
and taken at once when the controller is at rest with nothing ranked before it; refused with COLLISION, and nothing else
changed, when the slot holds an operation. -/
def Obligations.OperationWriteFillsTheSlotOrCollides : Prop :=
  ∀ (s : State) (code : Byte), s.Live →
    (s.lc.slot = none → ∃ w, exec (.operation code) s = .next { s with lc := { s.lc with
        slot := some { code := code, image := s.win.staging, entrySelect := s.win.entrySelect }, work := w } } ∧
      (s.lc.work ≠ .rest → w = s.lc.work) ∧
      (s.lc.work = .rest → s.lc.owed = false → (∀ n : InLine, s.lc.latches[n] = none) → w = .operation .started)) ∧
    (∀ op, s.lc.slot = some op → exec (.operation code) s = .next { s with win := { s.win with collision := true } })

/-- The arbiter's fixed order (R60): owed due processing, then the full latches in line order, then the operation in the
slot, then rest. -/
def Obligations.ArbiterOrderIsFixed : Prop :=
  ∀ c : ListController,
    (c.owed = true → c.choose = .run none) ∧
    (c.owed = false → ∀ n : InLine, (c.latches[n]).isSome → (∀ m : InLine, m < n → c.latches[m] = none) →
      c.choose = .latch n) ∧
    (c.owed = false → (∀ n : InLine, c.latches[n] = none) →
      c.choose = if c.slot.isSome then .operation .started else .rest)

/-- The completion of an operation (R66): OP RESULT, the slot empty, the cause OP COMPLETE, and the arbiter's next choice,
which is not an operation; nothing else changes. -/
def Obligations.CompletionLatchesResultAndEmptiesSlot : Prop :=
  ∀ (s : State) (r : Result), ∃ w, s.complete r = { s with
      lc := { s.lc with opResult := r, slot := none, work := w }
      alert := { s.alert with causes := withCause s.alert.causes .opComplete } } ∧
    (s.lc.owed = true → w = .run none) ∧ (∀ ph, w ≠ .operation ph) ∧
    (s.lc.owed = false → ∀ n : InLine, (s.lc.latches[n]).isSome → (∀ m : InLine, m < n → s.lc.latches[m] = none) →
      w = .latch n) ∧
    (s.lc.owed = false → (∀ n : InLine, s.lc.latches[n] = none) → w = .rest)

/-- UNKNOWN OPERATION (R65): the operation in progress has a code that names none; it completes with no other effect. With
no such operation in progress, and no other piece of work that has only to end, nothing happens: the model's choice, log
entry 5. -/
def Obligations.UnknownOperationOnlyCompletes : Prop :=
  ∀ s : State, s.Live →
    (∀ op ph, s.lc.slot = some op → s.lc.work = .operation ph → OpName.ofCode op.code = none →
      exec .unknownOperation s = .next (s.complete .unknownOperation)) ∧
    (s.atEnd = false →
      (∀ op ph, s.lc.slot = some op → s.lc.work = .operation ph → OpName.ofCode op.code ≠ none) →
      exec .unknownOperation s = .next s)

/-- The codes of operations and results (R168): the two tables, no other code names an operation, a read of OP RESULT
returns the code, every byte is accepted into an empty slot, one absent from the table completes UNKNOWN OPERATION,
refusals are the codes from 10H up, and the values of VECTOR are no result of theirs: entry numbers, 80H and 81H. -/
def Obligations.OperationAndResultCodes : Prop :=
  (OpName.all.map OpName.code = [0x01, 0x02, 0x03, 0x04, 0x05, 0x06, 0x07, 0x08, 0x09, 0x0A, 0x0B]) ∧
  (∀ n : OpName, OpName.ofCode n.code = some n) ∧
  (∀ b : Byte, b.toNat = 0 ∨ 11 < b.toNat → OpName.ofCode b = none) ∧
  ([Result.complete, .noEffect, .aborted, .unknownOperation, .badEntry, .badField, .badDelay, .pastDue, .entryFree,
      .entryArmed, .entryHasEvents, .referenced, .linkToFree].map Result.code =
    [0x00, 0x01, 0x02, 0x10, 0x11, 0x12, 0x13, 0x14, 0x15, 0x16, 0x17, 0x18, 0x19]) ∧
  (∀ s : State, s.Live → s.busRead 0x1 = some s.lc.opResult.code) ∧
  (∀ (s : State) (b : Byte), s.Live → s.lc.slot = none →
    ∃ t op, exec (.operation b) s = .next t ∧ t.lc.slot = some op ∧ op.code = b) ∧
  (∀ (s : State) (op : HostOp) (ph : OpPhase), s.Live → s.lc.slot = some op → s.lc.work = .operation ph →
    (op.code.toNat = 0 ∨ 11 < op.code.toNat) →
    ∃ t, exec .unknownOperation s = .next t ∧ t.lc.opResult = .unknownOperation) ∧
  (∀ s : State, s.Live → ∃ v : Byte, s.busRead 0x5 = some v ∧ (v = 0x80 ∨ v = 0x81 ∨ v.toNat < 64))

/-- The rows of the list controller's work, and of the requests of the work in hand: the model's division of work into
commands. A piece of work that has only to end, a run with no head due at its limit or a latch that has been served, ends
before such a row, and the arbiter chooses (log entry 10). A row that is no part of the piece of work in hand, or that its
work has not come to or has passed, changes nothing (log entries 5 and 13). -/
def Obligations.WorkNotInHandChangesNothing : Prop :=
  ∀ s : State, s.Live →
    (s.atEnd = true ↔ s.lc.work = .latchServed ∨
      ∃ limit, s.lc.work = .run (some limit) ∧ ∀ e l, s.lc.dueList = e :: l → isDue (s.dueOf e) limit = false) ∧
    (s.atEnd = true → exec .runNextExpiry s = .next s.endWork ∧
      ∀ c ∈ ([.define, .release, .readDefinition, .readState, .arm .whole, .arm .carryOut, .armAt .whole,
        .armAt .carryOut, .cancel, .clearClass, .setTime, .setTimeWalkCompletion, .configureLine, .configureClass,
        .unknownOperation, .dueProcessingRun, .triggerArm, .cancelRequest, .clearRequest, .presenceQuery,
        .serviceLimitReplacement, .lineConfiguration] : List Instr), exec c s = exec c s.endWork) ∧
    (s.atEnd = false →
    (∀ n, (∀ op ph, ¬ s.Carries n op ph) →
      match n with
      | .define => exec .define s = .next s
      | .release => exec .release s = .next s
      | .readDefinition => exec .readDefinition s = .next s
      | .readState => exec .readState s = .next s
      | .arm => ∀ sp, exec (.arm sp) s = .next s
      | .armAt => ∀ sp, exec (.armAt sp) s = .next s
      | .cancel => exec .cancel s = .next s ∧ exec .cancelRequest s = .next s
      | .clearClass => exec .clearClass s = .next s ∧ exec .clearRequest s = .next s
      | .setTime => exec .setTime s = .next s ∧ exec .setTimeWalkCompletion s = .next s
      | .configureLine => exec .configureLine s = .next s ∧ exec .lineConfiguration s = .next s
      | .configureClass => exec .configureClass s = .next s ∧ exec .serviceLimitReplacement s = .next s) ∧
    (∀ op ph, s.Carries .cancel op ph →
      (ph ≠ .started ∨ op.NamesNone ∨ ∃ e, op.Names e ∧ (s.entry e).timing = .free) →
      exec .cancelRequest s = .next s) ∧
    (∀ op ph, s.Carries .clearClass op ph → (ph ≠ .started ∨ 8 ≤ op.image[0].toNat) →
      exec .clearRequest s = .next s) ∧
    (∀ op ph, s.Carries .configureLine op ph → ph ≠ .started → exec .lineConfiguration s = .next s) ∧
    (∀ op ph, s.Carries .configureClass op ph → ph ≠ .started → exec .serviceLimitReplacement s = .next s) ∧
    (∀ op ph, s.Carries .setTime op ph → ph ≠ .started → exec .setTime s = .next s) ∧
    (∀ op ph, s.Carries .setTime op ph → (∀ d, ph ≠ .adjusting d) → exec .setTimeWalkCompletion s = .next s) ∧
    ((∀ n op e, s.Carries n op .started → op.Names e →
        ¬ (n = .define ∧ (s.entry e).timing ≠ .armed ∨ n = .release ∧ (s.entry e).timing = .idle ∨ n = .readState)) →
      exec .presenceQuery s = .next s) ∧
    (s.lc.work ≠ .run none → exec .dueProcessingRun s = .next s) ∧
    ((∀ limit, s.lc.work ≠ .run (some limit)) → exec .runNextExpiry s = .next s) ∧
    ((∀ n, s.lc.work ≠ .latch n) → exec .triggerArm s = .next s))

/-! ## Due list and arms -/

/-- The order of the due list (R35, R36, R73). An insertion keeps the members and their order, and puts the new one behind
every member whose distance is equal or smaller and before the first whose distance is greater, in a list that stands in
order of distance. Every step keeps the list in that order while no distance stands at the end of its range, where one more
tick would turn its sign; through a SET TIME the distances are those from the count on the basis that the list still has. -/
def Obligations.InsertionKeepsDueOrder : Prop :=
  (∀ (dist : EntryNo → Int) (e : EntryNo) (l : List EntryNo), l.Pairwise (fun a b => dist a ≤ dist b) →
    (insertBy dist e l).Pairwise (fun a b => dist a ≤ dist b) ∧
    ∃ before after, l = before ++ after ∧ insertBy dist e l = before ++ e :: after ∧
      (∀ m ∈ before, dist m ≤ dist e) ∧ (∀ m ∈ after, dist e < dist m)) ∧
  (∀ s t : State, DueLaw s → ControllerLaw s → s.DueOrder → (∀ e ∈ s.lc.dueList, -2 ^ 31 < s.distanceOf e) →
    step s = .next t → t.DueOrder)

/-- A fresh arm (R36, R37, R39): the entry becomes ARMED with the due time, its occurrence number 0 and its remaining the
repeat limit of a periodic entry; it is removed from its old place first; every other entry and every other block stays. -/
def Obligations.FreshArmEffect : Prop :=
  ∀ (s : State) (e : EntryNo) (due : Word),
    let en := s.entry e
    let rest := if en.timing = .armed then s.lc.dueList.erase e else s.lc.dueList
    s.freshArm e due = s.withList
      (s.lc.entries.set e { en with
        timing := .armed, due := some due, occurrence := 0,
        remaining := if en.defn.period.isSome then en.defn.repeatLimit else 0 })
      (insertBy (fun m => signedDiff (if m = e then due else s.dueOf m) s.time.count) e rest)

/-- ARM (R40, R42): its checks; a fresh arm at the current count plus the delay; completion at once, or with the next ARM
command when the command only carries it out (the model's operand, log entry 12). -/
def Obligations.ArmResults : Prop :=
  ∀ (s : State) (op : HostOp), s.Live → s.Carries .arm op .started →
    (op.NamesNone →
      exec (.arm .whole) s = .next (s.complete .badEntry) ∧
      exec (.arm .carryOut) s = .next (s.setWork (.operation (.carriedOut .badEntry)))) ∧
    (∀ e, op.Names e → (s.entry e).timing = .free →
      exec (.arm .whole) s = .next (s.complete .entryFree) ∧
      exec (.arm .carryOut) s = .next (s.setWork (.operation (.carriedOut .entryFree)))) ∧
    (∀ e, op.Names e → (s.entry e).timing ≠ .free →
      let t := s.freshArm e (s.time.count + (s.entry e).defn.delay)
      exec (.arm .whole) s = .next (t.complete .complete) ∧
      exec (.arm .carryOut) s = .next (t.setWork (.operation (.carriedOut .complete))))

/-- ARM AT (R41, R42): its checks in order, PAST DUE among them; a fresh arm at the time of the image; completion at once or
with the next ARM AT command (log entry 12). -/
def Obligations.ArmAtResults : Prop :=
  ∀ (s : State) (op : HostOp), s.Live → s.Carries .armAt op .started →
    let due := op.image[3] ++ op.image[2] ++ op.image[1] ++ op.image[0]
    let ends (t : State) (r : Result) :=
      exec (.armAt .whole) s = .next (t.complete r) ∧
      exec (.armAt .carryOut) s = .next (t.setWork (.operation (.carriedOut r)))
    (op.NamesNone → ends s .badEntry) ∧
    (∀ e, op.Names e → (s.entry e).timing = .free → ends s .entryFree) ∧
    (∀ e, op.Names e → (s.entry e).timing ≠ .free → signedDiff due s.time.count ≤ 0 → ends s .pastDue) ∧
    (∀ e, op.Names e → (s.entry e).timing ≠ .free → 1 ≤ signedDiff due s.time.count →
      ends (s.freshArm e due) .complete)

/-- CANCEL (R43, R44): its checks; the entry leaves the due list if it is ARMED; then the dispatch unit takes the cancel
request, after the posts issued before it (log entry 7), and the operation completes with the result by the table of
R44. -/
def Obligations.CancelResults : Prop :=
  ∀ (s : State) (op : HostOp), s.Live → s.Carries .cancel op .started →
    (op.NamesNone → exec .cancel s = .next (s.complete .badEntry)) ∧
    (∀ e, op.Names e → (s.entry e).timing = .free → exec .cancel s = .next (s.complete .entryFree)) ∧
    (∀ e, op.Names e → (s.entry e).timing ≠ .free →
      let w := op.image[0].getLsbD 0
      let listed := if (s.entry e).timing = .armed then
          s.withList (s.lc.entries.set e { s.entry e with timing := .idle, due := none, remaining := 0 })
            (s.lc.dueList.erase e)
        else s
      let q := listed.takeAllPosts
      exec .cancel s = .next ((q.takeCancel e w).complete
        (if (s.entry e).timing = .armed ∨ (∃ r ∈ q.du.held, r.entry = e) ∨ (w = true ∧ ∃ r ∈ q.du.pool, r.entry = e)
          then .complete else .noEffect)))

/-- CLEAR CLASS (R69, R70): BAD FIELD for a class of 8 to 255; otherwise every member of the class leaves the due list and
the others keep their places; then the dispatch unit takes the clear request, after the posts issued before it (log entry
7), and the operation completes COMPLETE. -/
def Obligations.ClearClassResults : Prop :=
  ∀ (s : State) (op : HostOp), s.Live → s.Carries .clearClass op .started →
    (8 ≤ op.image[0].toNat → exec .clearClass s = .next (s.complete .badField)) ∧
    (∀ c : ClassNo, op.image[0].toNat = c.val → s.lc.dueList.Nodup →
      ∃ entries,
        (∀ e : EntryNo, entries[e] = if e ∈ s.lc.dueList ∧ (s.entry e).defn.cls = c
          then { s.entry e with timing := .idle, due := none, remaining := 0 } else s.entry e) ∧
        let listed := s.withList entries (s.lc.dueList.filter fun e => (s.entry e).defn.cls != c)
        exec .clearClass s = .next ((listed.takeAllPosts.takeClear c).complete .complete))

/-- The start of SET TIME (R13, R71, R92, R117): the load with phase 0, the shift of the full latches and of every record
of the dispatch unit, and ADJUSTING; the due list is not shifted yet, and nothing else changes, but that the dispatch unit
first takes the post requests still under way, which the shift then reaches: read from the spec by inference, log entry 7. -/
def Obligations.SetTimeStartShiftsAndLoads : Prop :=
  ∀ (s : State) (op : HostOp), s.Live → s.Carries .setTime op .started →
    let new := op.image[3] ++ op.image[2] ++ op.image[1] ++ op.image[0]
    let d := new - s.time.count
    let q := s.takeAllPosts
    exec .setTime s = .next { q with
      time := { s.time with count := new, phase := 0 }
      lc := { s.lc with latches := s.lc.latches.map (Option.map (· + d)), work := .operation (.adjusting d) }
      du := { q.du with
        pool := q.du.pool.map fun r => { r with due := r.due + d, expiry := r.expiry + d }
        held := q.du.held.map fun r => { r with due := r.due + d, expiry := r.expiry + d }
        stack := q.du.stack.map fun r =>
          { r with due := r.due + d, expiry := r.expiry + d, ackTime := r.ackTime + d } } }

/-- The end of SET TIME's walk (R73): D is added to the due time of every member of the due list, whose order and whose
members' remaining and occurrence numbers stay; ADJUSTING clears and the operation completes COMPLETE. -/
def Obligations.SetTimeWalkShiftsTheDueList : Prop :=
  ∀ (s : State) (op : HostOp) (d : Word), s.Live → s.Carries .setTime op (.adjusting d) → s.lc.dueList.Nodup →
    ∃ entries,
      (∀ e : EntryNo, entries[e] = if e ∈ s.lc.dueList then { s.entry e with due := (s.entry e).due.map (· + d) }
        else s.entry e) ∧
      exec .setTimeWalkCompletion s = .next ((s.withList entries s.lc.dueList).complete .complete) ∧
      ((s.withList entries s.lc.dueList).complete .complete).adjusting = false

/-- CONFIGURE LINE and the line unit's taking of the configuration (R75, R143): BAD FIELD, LINK TO FREE, or the four values
replaced together with the counter, the last level and the other lines kept. That the row LINE_CONFIGURATION changes nothing
when the checks fail (log entry 5), and that it leaves the operation only its completion (log entry 13), are the model's
choices. -/
def Obligations.ConfigureLineResults : Prop :=
  ∀ (s : State) (op : HostOp), s.Live → s.Carries .configureLine op .started →
    let bad := 4 ≤ op.image[0].toNat ∨ 8 ≤ op.image[1].toNat ∨ (64 ≤ op.image[2].toNat ∧ op.image[2].toNat ≠ 255)
    (bad → exec .configureLine s = .next (s.complete .badField) ∧ exec .lineConfiguration s = .next s) ∧
    (¬ bad → (∃ x : EntryNo, op.image[2].toNat = x.val ∧ (s.entry x).timing = .free) →
      exec .configureLine s = .next (s.complete .linkToFree) ∧ exec .lineConfiguration s = .next s) ∧
    (∀ n : InLine, op.image[0].toNat = n.val → ¬ bad →
      (∀ x : EntryNo, op.image[2].toNat = x.val → (s.entry x).timing ≠ .free) →
      ∃ cfg : LineConfig,
        cfg.edgeSelect = (match op.image[1].toNat % 4 with | 0 => .none | 1 => .rising | 2 => .falling | _ => .both) ∧
        cfg.captureOn = op.image[1].getLsbD 2 ∧ cfg.holdOff = op.image[3] ∧
        (∀ x : EntryNo, cfg.trigger = some x ↔ op.image[2].toNat = x.val) ∧
        let t : State := { s with line := { s.line with ins := s.line.ins.set n { s.line.ins[n] with cfg := cfg } } }
        exec .configureLine s = .next (t.complete .complete) ∧
        exec .lineConfiguration s = .next (t.setWork (.operation (.carriedOut .complete))))

/-- An operation that has been carried out has only to complete: ARM and ARM AT with the result they had then, whatever has
arrived since (R42), and CANCEL, CLEAR CLASS, CONFIGURE LINE and CONFIGURE CLASS once the other block has taken the request
(R44, R70, R75, R76). That the two parts may be two commands is the model's choice, log entries 12 and 13. -/
def Obligations.OperationsCarriedOutOnlyComplete : Prop :=
  ∀ (s : State) (op : HostOp), s.Live →
    (∀ r sp, s.Carries .arm op (.carriedOut r) → exec (.arm sp) s = .next (s.complete r)) ∧
    (∀ r sp, s.Carries .armAt op (.carriedOut r) → exec (.armAt sp) s = .next (s.complete r)) ∧
    (∀ r, s.Carries .cancel op (.carriedOut r) → exec .cancel s = .next (s.complete r)) ∧
    (∀ r, s.Carries .clearClass op (.carriedOut r) → exec .clearClass s = .next (s.complete r)) ∧
    (∀ r, s.Carries .configureLine op (.carriedOut r) → exec .configureLine s = .next (s.complete r)) ∧
    (∀ r, s.Carries .configureClass op (.carriedOut r) → exec .configureClass s = .next (s.complete r))

/-- CONFIGURE CLASS and the replacement of the limit (R76, R116): BAD FIELD for a class of 8 to 255, or the class's service
limit replaced, with no flag and no elapsed count changed by it, after the whole of a tick already taken (log entry 8). That the
row SERVICE_LIMIT_REPLACEMENT changes nothing for a class of 8 to 255 (log entry 5), and that it leaves the operation only
its completion (log entry 13), are the model's choices. -/
def Obligations.ConfigureClassResults : Prop :=
  ∀ (s : State) (op : HostOp), s.Live → s.Carries .configureClass op .started →
    (8 ≤ op.image[0].toNat →
      exec .configureClass s = .next (s.complete .badField) ∧ exec .serviceLimitReplacement s = .next s) ∧
    (∀ c : ClassNo, op.image[0].toNat = c.val →
      let q := s.finishTick
      let t : State := { q with du := { q.du with limits := q.du.limits.set c (op.image[2] ++ op.image[1]) } }
      exec .configureClass s = .next (t.complete .complete) ∧
      exec .serviceLimitReplacement s = .next (t.setWork (.operation (.carriedOut .complete))))

/-! ## Due processing and trigger arms -/

/-- A tick at the list controller (R46, R59): the owed mark is set, and a controller at rest takes the run at once. Without
a tick handed over there is no arrival: log entry 6. -/
def Obligations.ListControllerTickOwesARun : Prop :=
  ∀ s : State, s.Live →
    (s.link.ticksToList = 0 → exec .listControllerTick s = .next s) ∧
    (∀ k, s.link.ticksToList = k + 1 →
      exec .listControllerTick s = .next { s with
        link := { s.link with ticksToList := k }
        lc := { s.lc with owed := true, work := if s.lc.work = .rest then .run none else s.lc.work } })

/-- A run (R47, R48): its start clears the owed mark, reads the count as the run limit, and makes the first expiry if the
head is due; each further step makes one expiry of the head while it is due at the limit, and the run ends when none is.
The end is a step of its own, or part of the next row of the controller's work (statement WorkNotInHandChangesNothing), so
that a tick can come between the last expiry and the end: the model's division into commands, log entry 10. -/
def Obligations.RunExpiresHeadsDueAtItsLimit : Prop :=
  ∀ (s : State) (limit : Word), s.Live →
    let start : State := { s with lc := { s.lc with owed := false } }
    (s.lc.work = .run none → limit = s.time.count →
      (s.lc.dueList = [] → exec .dueProcessingRun s = .next (start.setWork (.run (some limit)))) ∧
      (∀ e l, s.lc.dueList = e :: l → exec .dueProcessingRun s = .next
        ((if isDue (s.dueOf e) limit = true then start.expire e else start).setWork (.run (some limit))))) ∧
    (s.lc.work = .run (some limit) →
      (s.lc.dueList = [] → exec .runNextExpiry s = .next s.endWork) ∧
      (∀ e l, s.lc.dueList = e :: l → exec .runNextExpiry s = .next
        (if isDue (s.dueOf e) limit = true then s.expire e else s.endWork)))

/-- One expiry (R49 to R53): the requests it issues, the occurrence number, and the continuation: re-insertion on the grid
of due times, or the end of the series with the follow-on arm reckoned from the due time. -/
def Obligations.ExpiryEffect : Prop :=
  ∀ (s : State) (e : EntryNo),
    let en := s.entry e
    let d := en.defn
    let due := en.due.getD 0
    let occ := en.occurrence + 1
    let issued : State := { s with link := { s.link with
      posts := s.link.posts ++ (if d.delivery = .post then
        [{ entry := e, cls := d.cls, occurrence := occ, due := due, expiry := s.time.count, staleLimit := d.staleLimit,
           pulseLine := d.pulseLine }] else [])
      actions := s.link.actions ++ (match d.output with
        | none => []
        | some o => [match o.act with
          | .set => .set o.line | .clear => .clear o.line | .toggle => .toggle o.line | .pulse => .pulse o.line e]) } }
    let rest := s.lc.dueList.erase e
    let ended := issued.withList
      (s.lc.entries.set e { en with timing := .idle, due := none, remaining := 0, occurrence := occ }) rest
    (∀ p, d.period = some p → d.repeatLimit = 0 ∨ 2 ≤ en.remaining.toNat →
      s.expire e = issued.withList
        (s.lc.entries.set e { en with
          timing := .armed
          due := some (due + p)
          occurrence := occ
          remaining := if d.repeatLimit = 0 then 0 else en.remaining - 1 })
        (insertBy (fun m => signedDiff (if m = e then due + p else s.dueOf m) s.time.count) e rest)) ∧
    (d.period = none ∨ (d.repeatLimit ≠ 0 ∧ en.remaining.toNat < 2) →
      (d.followOn = none → s.expire e = ended) ∧
      (∀ f, d.followOn = some f →
        s.expire e = if (ended.entry f).timing = .idle ∨
            ((ended.entry f).timing = .armed ∧ (ended.entry f).defn.policy = .restart)
          then ended.freshArm f (due + (ended.entry f).defn.delay) else ended))

/-- The service of a latch (R56, R57): the latch empties; the entry that the trigger names now is armed at the edge time
plus its delay, when it is IDLE or ARMED with RESTART; a due time that is due already makes due processing owed; an absent
trigger arms nothing. The end of the work, at which the arbiter chooses, comes before the next row of the controller's work
(statement WorkNotInHandChangesNothing, log entry 10). -/
def Obligations.TriggerArmServesTheLatch : Prop :=
  ∀ (s : State) (n : InLine), s.Live → s.lc.work = .latch n →
    let serves (t : State) := exec .triggerArm s = .next (t.setWork .latchServed)
    let emptied : State := { s with lc := { s.lc with latches := s.lc.latches.set n none } }
    (s.lc.latches[n] = none ∨ (s.line.ins[n]).cfg.trigger = none → serves emptied) ∧
    (∀ t x, s.lc.latches[n] = some t → (s.line.ins[n]).cfg.trigger = some x →
      let en := s.entry x
      let due := t + en.defn.delay
      let arms := en.timing = .idle ∨ (en.timing = .armed ∧ en.defn.policy = .restart)
      (¬ arms → serves emptied) ∧
      (arms → isDue due s.time.count = false → serves (emptied.freshArm x due)) ∧
      (arms → isDue due s.time.count = true →
        let armed := emptied.freshArm x due
        serves { armed with lc := { armed.lc with owed := true } }))

/-! ## Dispatch unit: requests -/

/-- A post request (R50, R80 to R83, R124): the first of the four cases that applies, with the record it makes or the
count it raises; the requests are taken in order, each after the whole of a tick already taken; one that names a pulse
line is taken in one event with the PULSE that goes with it and with the action requests issued before that (log entries
7 to 9). With none under way there is no arrival (log entry 6). -/
def Obligations.PostRequestTakenByFirstCase : Prop :=
  (∀ (s : State) (p : PostReq),
    let merge (r : Record) : Record :=
      if r.entry = p.entry then { r with overrun := if r.overrun = 255 then 255 else r.overrun + 1 } else r
    let new : Record :=
      { entry := p.entry, cls := p.cls, firstOcc := p.occurrence, due := p.due, expiry := p.expiry, overrun := 0,
        age := p.expiry - p.due, staleLimit := p.staleLimit, pulseLine := p.pulseLine }
    let inPool := ∃ r ∈ s.du.pool, r.entry = p.entry
    let inHeld := ∃ r ∈ s.du.held, r.entry = p.entry
    (inPool → s.postCase p = { s with du := { s.du with pool := s.du.pool.map merge } }) ∧
    (¬ inPool → inHeld → s.postCase p = { s with du := { s.du with held := s.du.held.map merge } }) ∧
    (¬ inPool → ¬ inHeld → s.du.pool.length < 32 →
      s.postCase p = { s with du := { s.du with pool := s.du.pool ++ [new] } }) ∧
    (¬ inPool → ¬ inHeld → 32 ≤ s.du.pool.length →
      s.postCase p = { s with
        du := { s.du with held := s.du.held ++ [new] }
        alert := { s.alert with causes := withCause s.alert.causes .held } })) ∧
  (∀ s : State, s.Live →
    let q := s.finishTick
    (s.link.posts = [] → exec .postRequest s = .next s) ∧
    (∀ p ps, s.link.posts = p :: ps → p.pulseLine = none →
      exec .postRequest s = .next (({ q with link := { q.link with posts := ps } } : State).postCase p)) ∧
    (∀ p ps l before m e after, s.link.posts = p :: ps → p.pulseLine = some l →
      s.link.actions = before ++ .pulse m e :: after → (∀ a ∈ before, a.pulse? = none) →
      exec .postRequest s = .next
        (((before ++ [.pulse m e]).foldl State.perform
          { q with link := { q.link with posts := ps, actions := after } }).postCase p))) ∧
  (∀ s : State, (s.link.posts = [] → s.takeAllPosts = s.finishTick) ∧
    (s.link.posts ≠ [] → s.takeAllPosts = s.takeNextPost.takeAllPosts))

/-- The presence query (R23, R93): for DEFINE of an entry not ARMED, RELEASE of an IDLE entry and READ STATE, the dispatch
unit answers from its state as it stands when the posts issued before have been taken, and changes nothing by it; the
answer stays with the operation (log entries 7 and 13). -/
def Obligations.PresenceQueryAnswersFromTheState : Prop :=
  ∀ (s : State) (n : OpName) (op : HostOp) (e : EntryNo), s.Live → s.Carries n op .started → op.Names e →
    (n = .define ∧ (s.entry e).timing ≠ .armed ∨ n = .release ∧ (s.entry e).timing = .idle ∨ n = .readState) →
    let q := s.takeAllPosts
    ∃ p : Presence, exec .presenceQuery s = .next { q with lc := { q.lc with work := .operation (.presence p) } } ∧
      (p.pending = true ↔ ∃ r ∈ q.du.pool, r.entry = e) ∧
      (p.held = true ↔ ∃ r ∈ q.du.held, r.entry = e) ∧
      (p.inService = true ↔ ∃ r ∈ q.du.stack, r.entry = e)

/-- What a cancel request and a clear request withdraw (R84 to R86, R90, R91): the held records first, in queue order, and
then, for a cancel only with WITHDRAW, the pool's events; in-service records, mask, ENABLE and limits stay. The rows make
the list side of the operation in progress and take the request that it sends after that (R44, R70), after the posts issued
before it, and leave the operation its completion with its result (log entries 7 and 13). -/
def Obligations.CancelAndClearRequestsWithdraw : Prop :=
  (∀ (s : State) (e : EntryNo) (w : Bool), QueueLaw s → s.WaitingOnce →
    s.takeCancel e w = s.withdrawn .withdrawn (s.du.held.filter fun r => r.entry = e)
      (if w then s.du.pool.filter fun r => r.entry = e else [])) ∧
  (∀ (s : State) (c : ClassNo), QueueLaw s → s.WaitingOnce →
    s.takeClear c = s.withdrawn .withdrawn (s.du.held.filter fun r => r.cls = c)
      (s.du.pool.filter fun r => r.cls = c)) ∧
  (∀ (s : State) (op : HostOp) (e : EntryNo), s.Live → s.Carries .cancel op .started → op.Names e →
    (s.entry e).timing ≠ .free →
    let listed := if (s.entry e).timing = .armed then
        s.withList (s.lc.entries.set e { s.entry e with timing := .idle, due := none, remaining := 0 })
          (s.lc.dueList.erase e)
      else s
    let q := listed.takeAllPosts
    let w := op.image[0].getLsbD 0
    exec .cancelRequest s = .next ((q.takeCancel e w).setWork (.operation (.carriedOut
      (if (s.entry e).timing = .armed ∨ (∃ r ∈ q.du.held, r.entry = e) ∨ (w = true ∧ ∃ r ∈ q.du.pool, r.entry = e)
        then .complete else .noEffect))))) ∧
  (∀ (s : State) (op : HostOp) (c : ClassNo), s.Live → s.Carries .clearClass op .started → op.image[0].toNat = c.val →
    exec .clearRequest s = .next (((s.clearWalk c).takeAllPosts.takeClear c).setWork
      (.operation (.carriedOut .complete))))

/-! ## Dispatch unit: the tick -/

/-- A tick at the dispatch unit (R87, R114): every age and every service elapsed count rises by one, saturating, in pool,
held queue and at every level of the stack; no class mask, flag, limit or other field changes; the withdrawals and the
check of the tick stand to be made (log entry 8). Without a tick handed over there is no arrival (log entry 6). -/
def Obligations.DispatchTickAgesAndTimes : Prop :=
  ∀ s : State, s.Live →
    (s.link.ticksToDispatch = 0 → exec .dispatchTick s = .next s) ∧
    (∀ k, s.link.ticksToDispatch = k + 1 →
      let q := s.finishTick
      let aged (r : Record) : Record := { r with age := if r.age = 0xFFFFFFFF#32 then r.age else r.age + 1 }
      exec .dispatchTick s = .next { q with
        link := { q.link with ticksToDispatch := k }
        du := { q.du with
          pool := q.du.pool.map aged
          held := q.du.held.map aged
          stack := q.du.stack.map fun r =>
            { r with elapsed := if r.elapsed = 0xFFFF#16 then r.elapsed else r.elapsed + 1 }
          staleOwed := true
          overrunOwed := true } })

/-- The stale withdrawals of a tick (R84 to R86, R88): the stale held records from the head, and then the stale events of
class lists 0 to 7, each from the head; the cause STALE if any is withdrawn. They are made once for each tick: the mark that says whether
they are still to make, without which the row changes nothing, is the model's choice, log entry 8. -/
def Obligations.StaleRecordsAreWithdrawnInOrder : Prop :=
  ∀ s : State, s.Live →
    let stale (r : Record) : Bool := decide (r.staleLimit ≠ 0 ∧ r.staleLimit.toNat ≤ r.age.toNat)
    let goneHeld := s.du.held.filter stale
    let gonePool := ([0, 1, 2, 3, 4, 5, 6, 7] : List ClassNo).flatMap fun c =>
      s.du.pool.filter fun r => decide (r.cls = c) && stale r
    (s.du.staleOwed = false → exec .staleWithdrawal s = .next s) ∧
    (s.du.staleOwed = true → QueueLaw s → s.WaitingOnce →
      let u := ({ s with du := { s.du with staleOwed := false } } : State).withdrawn .stale goneHeld gonePool
      exec .staleWithdrawal s = .next { u with alert := { u.alert with
        causes := causeIf (decide (goneHeld ++ gonePool ≠ [])) u.alert.causes .stale } })

/-- The service limit check of a tick (R115): every record whose flag is clear, whose class has a limit and whose elapsed
count has reached it gets its flag; the cause SERVICE OVERRUN if any does. It is made once for each tick: the mark that says
whether it is still to make, without which the row changes nothing, is the model's choice, log entry 8. -/
def Obligations.ServiceLimitMarksOverruns : Prop :=
  ∀ s : State, s.Live →
    let late (r : ServiceRecord) : Bool := decide (r.overrunFlag = false ∧ s.du.limits[r.cls] ≠ 0 ∧
      (s.du.limits[r.cls]).toNat ≤ r.elapsed.toNat)
    (s.du.overrunOwed = false → exec .serviceOverrun s = .next s) ∧
    (s.du.overrunOwed = true → exec .serviceOverrun s = .next { s with
      du := { s.du with
        stack := s.du.stack.map fun r => { r with overrunFlag := r.overrunFlag || late r }
        overrunOwed := false }
      alert := { s.alert with causes := causeIf (s.du.stack.any late) s.alert.causes .serviceOverrun } })

/-- Nothing falls between the parts of one tick at the dispatch unit (R77, R87, R114, R125): the arrivals whose outcome
depends on the tick, and every pin and every read, find the whole of the tick taken, as if its withdrawals and its check had
come first; these two may come in either order; and whatever command comes between them, what is left after it is what is
left when the whole of the tick is taken before it. That the two rows leave such a state between them is the model's choice,
log entry 8. -/
def Obligations.TickIsTakenWhole : Prop :=
  (∀ (c : Instr) (s : State), ∃ t u, exec c s = .next t ∧ exec c s.finishTick = .next u ∧
    t.finishTick = u.finishTick) ∧
  (∀ s : State, s.intAsserted = s.finishTick.intAsserted ∧ s.alertAsserted = s.finishTick.alertAsserted ∧
    (∀ l, s.outPin l = s.finishTick.outPin l) ∧ (∀ a, s.busRead a = s.finishTick.busRead a)) ∧
  ∀ s : State, s.Live →
    (s.link.posts ≠ [] → exec .postRequest s = exec .postRequest s.finishTick) ∧
    exec .acknowledge s = exec .acknowledge s.finishTick ∧
    (∀ b, exec (.done b) s = exec (.done b) s.finishTick) ∧
    (∀ b, exec (.classMask b) s = exec (.classMask b) s.finishTick) ∧
    (∀ b, exec (.alertClear b) s = exec (.alertClear b) s.finishTick) ∧
    (∀ b, exec (.popMiss b) s = exec (.popMiss b) s.finishTick) ∧
    exec .viewData s = exec .viewData s.finishTick ∧
    s.takeAllPosts = s.finishTick.takeAllPosts ∧
    (∃ t u, exec .staleWithdrawal s = .next t ∧ exec .serviceOverrun t = .next s.finishTick ∧
      exec .serviceOverrun s = .next u ∧ exec .staleWithdrawal u = .next s.finishTick) ∧
    s.finishTick.finishTick = s.finishTick ∧ s.finishTick.du.staleOwed = false ∧ s.finishTick.du.overrunOwed = false

/-! ## Dispatch unit: eligibility, acknowledge, DONE -/

/-- Eligibility, INT*, ALERT* and STATUS (R95, R96, R156, R163): a class is eligible under the four conditions; INT* is
asserted while ENABLE is 1 and some class is eligible; ALERT* while a cause is set and enabled; the bits of STATUS, which
report these two lines. Lines and STATUS follow the state after the whole of a tick already taken: the model's choice, log
entry 8; that a read of STATUS is a function is log entry 16. -/
def Obligations.EligibilityDrivesTheLinesAndStatus : Prop :=
  ∀ s : State,
    (∀ c : ClassNo, s.eligible c = true ↔
      (∃ r ∈ s.du.pool, r.cls = c) ∧ s.du.classMask.getLsbD c = false ∧ s.du.stack.length < 4 ∧
      (s.du.stack = [] ∨ ∃ top rest, s.du.stack = top :: rest ∧ c < top.cls)) ∧
    (s.intAsserted = true ↔ s.du.enable = true ∧ ∃ c, s.finishTick.eligible c = true) ∧
    (s.alertAsserted = true ↔
      ∃ n : Fin 8, s.finishTick.alert.causes.getLsbD n = true ∧ s.alert.enables.getLsbD n = true) ∧
    (s.Live → ∃ b : Byte, s.busRead 0x0 = some b ∧
     b.getLsbD 0 = s.du.enable ∧ (b.getLsbD 1 = true ↔ ∃ op, s.lc.slot = some op) ∧ b.getLsbD 2 = s.win.collision ∧
     (b.getLsbD 3 = true ↔ ∃ d, s.lc.work = .operation (.adjusting d)) ∧ b.getLsbD 4 = s.time.run ∧
     b.getLsbD 5 = s.intAsserted ∧ b.getLsbD 6 = s.alertAsserted ∧ (b.getLsbD 7 = true ↔ s.du.stack ≠ []))

/-- ACKNOWLEDGE (R84, R100, R102 to R104): ignored while RESET* is asserted; NEST FULL with 4 records in service; NONE when
no class is eligible; else the head of the lowest-numbered eligible class goes onto the stack with the count as its
acknowledge time, the freed slot goes to the held head, and the entry number is returned; INT* follows the pool and the
stack that it leaves. Nothing else changes, but the model's record of the byte read (log entry 16). A tick already taken is
taken whole before it (log entry 8). -/
def Obligations.AcknowledgeTakesTheFirstOfThreeCases : Prop :=
  (∀ s : State, s.win.resetAsserted = true → exec .acknowledge s = .next s) ∧
  (∀ s t : State, s.Live → exec .acknowledge s = .next t →
    (t.intAsserted = true ↔ s.du.enable = true ∧ ∃ r ∈ t.du.pool, s.du.classMask.getLsbD r.cls = false ∧
      t.du.stack.length < 4 ∧ (t.du.stack = [] ∨ ∃ top rest, t.du.stack = top :: rest ∧ r.cls < top.cls))) ∧
  ∀ s : State, s.Live →
    let q := s.finishTick
    (4 ≤ s.du.stack.length → exec .acknowledge s = .next { q with win := { q.win with readData := some 0x81 } }) ∧
    (s.du.stack.length < 4 → (∀ c, q.eligible c = false) →
      exec .acknowledge s = .next { q with win := { q.win with readData := some 0x80 } }) ∧
    (∀ c r l, q.eligible c = true → (∀ d : ClassNo, d < c → q.eligible d = false) →
      (q.du.pool.filter fun x => x.cls = c) = r :: l →
      q.du.pool.length ≤ 32 → (q.du.held ≠ [] → q.du.pool.length = 32) →
      exec .acknowledge s = .next { q with
        du := { q.du with
          pool := q.du.pool.erase r ++ q.du.held.take 1
          held := q.du.held.drop 1
          stack :=
            { entry := r.entry, cls := c, firstOcc := r.firstOcc, due := r.due, expiry := r.expiry, overrun := r.overrun,
              pulseLine := r.pulseLine, ackTime := q.time.count, elapsed := 0, overrunFlag := false } :: q.du.stack }
        win := { q.win with readData := some (BitVec.ofNat 8 r.entry.val) } })

/-- DONE (R85, R110, R111, R125): accepted when the byte is the entry number of the top record, which is popped, with the
release of its line when no other record of its entry remains; refused otherwise, with DELIVERY ERROR and no other
change; INT* follows the pool and the stack that it leaves. A tick already taken is taken whole before it (log entry 8). -/
def Obligations.DonePopsTheTopOrIsRefused : Prop :=
  (∀ (s t : State) (b : Byte), s.Live → exec (.done b) s = .next t →
    (t.intAsserted = true ↔ s.du.enable = true ∧ ∃ r ∈ t.du.pool, s.du.classMask.getLsbD r.cls = false ∧
      t.du.stack.length < 4 ∧ (t.du.stack = [] ∨ ∃ top rest, t.du.stack = top :: rest ∧ r.cls < top.cls))) ∧
  ∀ (s : State) (b : Byte), s.Live →
    let q := s.finishTick
    (q.du.stack = [] ∨ (∃ top rest, q.du.stack = top :: rest ∧ b.toNat ≠ top.entry.val) →
      exec (.done b) s = .next { q with alert := { q.alert with causes := withCause q.alert.causes .deliveryError } }) ∧
    (∀ top rest, q.du.stack = top :: rest → b.toNat = top.entry.val →
      let popped : State := { q with du := { q.du with stack := rest } }
      let remains := (∃ r ∈ q.du.pool ++ q.du.held, r.entry = top.entry) ∨ ∃ r ∈ rest, r.entry = top.entry
      (top.pulseLine = none ∨ remains → exec (.done b) s = .next popped) ∧
      (∀ l : OutLine, top.pulseLine = some l → ¬ remains →
        exec (.done b) s = .next { popped with line := { q.line with
          outs := q.line.outs.set l { q.line.outs[l] with
            holders := (q.line.outs[l]).holders.filter fun e => e ≠ top.entry } } }))

/-! ## Line unit -/

/-- Action requests (R122 to R124): the four effects on the line named, with no other line changed, and the observed level
that follows; they are taken in order of issue, a PULSE together with the post request that goes with it, which is taken
after the posts issued before it (log entry 9) and after the whole of a tick already taken (log entry 8). With none under way
there is no arrival (log entry 6). -/
def Obligations.ActionRequestsMoveTheLines : Prop :=
  (∀ (s : State) (l : OutLine) (e : EntryNo),
    let o := s.line.outs[l]
    let put (o : OutputLine) : State := { s with line := { s.line with outs := s.line.outs.set l o } }
    s.perform (.set l) = put { o with base := true } ∧ s.perform (.clear l) = put { o with base := false } ∧
    s.perform (.toggle l) = put { o with base := !o.base } ∧
    (∃ hs, s.perform (.pulse l e) = put { o with holders := hs } ∧ ∀ x, x ∈ hs ↔ x = e ∨ x ∈ o.holders)) ∧
  (∀ o : OutputLine, o.level = true ↔ o.base = true ∨ o.holders ≠ []) ∧
  (∀ s : State, s.Live →
    (s.link.actions = [] → exec .actionRequest s = .next s) ∧
    (∀ a as, s.link.actions = a :: as → a.pulse? = none →
      exec .actionRequest s = .next (({ s with link := { s.link with actions := as } } : State).perform a)) ∧
    (∀ l e as before p after, s.link.actions = .pulse l e :: as → s.link.posts = before ++ p :: after →
      (∀ x ∈ before, x.pulseLine = none) → p.pulseLine ≠ none →
      let q := s.finishTick
      exec .actionRequest s = .next (((before ++ [p]).foldl State.postCase
        { q with link := { q.link with posts := after, actions := as } }).perform (.pulse l e))))

/-- Host writes of the output lines (R128) and the read of the observed levels (R130): OUTPUT SET raises base levels,
OUTPUT CLEAR lowers them and empties holder sets, on the selected lines alone; no record changes. The pins and the read
follow the state after the whole of a tick already taken: the model's choice, log entry 8; that the read is a function is log
entry 16. -/
def Obligations.OutputWritesSelectLines : Prop :=
  (∀ (s : State) (b : Byte), s.Live →
    (∃ outs : Vector OutputLine 8,
      exec (.outputSet b) s = .next { s with line := { s.line with outs := outs } } ∧
      ∀ l : OutLine, outs[l] = if b.getLsbD l then { s.line.outs[l] with base := true } else s.line.outs[l]) ∧
    (∃ outs : Vector OutputLine 8,
      exec (.outputClear b) s = .next { s with line := { s.line with outs := outs } } ∧
      ∀ l : OutLine, outs[l] = if b.getLsbD l then { base := false, holders := [] } else s.line.outs[l])) ∧
  (∀ (s : State) (l : OutLine), s.Live → ∃ b : Byte, s.busRead 0xB = some b ∧ b.getLsbD l = s.outPin l ∧
    (s.outPin l = true ↔ (s.finishTick.line.outs[l]).base = true ∨ (s.finishTick.line.outs[l]).holders ≠ []))

/-- A change of level on an input pin (R134 to R137, R139, R142): no change; a change that is ignored, which moves the last
level alone; a recognized edge, which loads the hold-off, makes its capture record and fills the latch with one count.
A tick at the line unit (R136) lowers every hold-off counter that is not 0; without one handed over there is no arrival
(log entry 6). -/
def Obligations.InputChangesAndHoldOff : Prop :=
  (∀ (s : State) (n : InLine) (level : Bool), s.Live →
    let i := s.line.ins[n]
    let put (j : InputLine) : LineUnit := { s.line with ins := s.line.ins.set n j }
    let selected := match i.cfg.edgeSelect with
      | .none => false
      | .rising => level
      | .falling => !level
      | .both => true
    (i.lastLevel = level →
      exec (.levelChange n level) s = .next { s with line := put { i with pin := level } }) ∧
    (i.lastLevel ≠ level → selected = false ∨ i.counter ≠ 0 →
      exec (.levelChange n level) s = .next { s with line := put { i with pin := level, lastLevel := level } }) ∧
    (i.lastLevel ≠ level → selected = true → i.counter = 0 →
      let r : CaptureRecord :=
        { line := n, edge := if level then .rising else .falling, count := s.time.count, phase := s.time.phase }
      let queue := s.line.captures
      let joins := decide (queue.length < 16)
      let filled : ListController := { s.lc with
        latches := s.lc.latches.set n (some ((s.lc.latches[n]).getD s.time.count)) }
      exec (.levelChange n level) s = .next { s with
        line := { put { i with pin := level, lastLevel := level, counter := i.cfg.holdOff } with
          captures := if i.cfg.captureOn && joins then queue ++ [r] else queue }
        alert := { s.alert with
          causes := causeIf (i.cfg.captureOn && !joins)
            (causeIf (i.cfg.captureOn && queue.isEmpty) s.alert.causes .captureReady) .captureLost }
        lc := if i.cfg.trigger.isSome then
            { filled with work := if s.lc.work = .rest then filled.choose else s.lc.work }
          else s.lc })) ∧
  (∀ s : State, s.Live →
    (s.link.ticksToLine = 0 → exec .lineUnitTick s = .next s) ∧
    (∀ k, s.link.ticksToLine = k + 1 → ∃ ins : Vector InputLine 4,
      exec .lineUnitTick s = .next { s with
        link := { s.link with ticksToLine := k }
        line := { s.line with ins := ins } } ∧
      ∀ n : InLine, ins[n] = { s.line.ins[n] with
        counter := if (s.line.ins[n]).counter = 0 then 0 else (s.line.ins[n]).counter - 1 }))

/-! ## Register window -/

/-- A write of CONTROL with CLEAR ALL 0 (R64, R96, R140, R150, R164): each bit goes to its owner, whichever of the rows of
CONTROL the write is counted under (log entry 14); with CLEAR ALL 1 the command bits act too and ENABLE keeps its value. A
tick already taken is taken whole before it (log entry 8). -/
def Obligations.ControlWriteReachesItsOwners : Prop :=
  ∀ (s : State) (b : Byte), s.Live →
    let q := s.finishTick
    let bits : State := { q with
      win := { q.win with collision := q.win.collision && !b.getLsbD 2 }
      line := { q.line with captures := if b.getLsbD 3 then q.line.captures.tail else q.line.captures }
      alert := { q.alert with missLog := if b.getLsbD 4 then q.alert.missLog.tail else q.alert.missLog } }
    let t : State := if b.getLsbD 1 then bits.clearAll else { bits with du := { q.du with enable := b.getLsbD 0 } }
    exec (.enable b) s = .next t ∧ exec (.clearAll b) s = .next t ∧ exec (.clearCollision b) s = .next t ∧
    exec (.popCapture b) s = .next t ∧ exec (.popMiss b) s = .next t

/-- Clear-all (R34, R38, R68, R98, R99, R120, R132, R146, R159, R165): every entry FREE, every list, queue, latch, record
and cause cleared, OP RESULT ABORTED when an operation stood in the slot; the base levels as the action requests issued
before leave them; kept: the time base, mask, ENABLE, limits, enables, edge selects, captures on, hold-offs, last levels,
and the window but for COLLISION (log entry 15 for the requests and ticks under way). -/
def Obligations.ClearAllEmptiesFourBlocks : Prop :=
  ∀ (s : State) (b : Byte), s.Live → b.getLsbD 1 = true →
    ∃ (outs : Vector OutputLine 8) (ins : Vector InputLine 4),
      (∀ l : OutLine, outs[l] = { base := ((s.link.actions.foldl State.perform s).line.outs[l]).base, holders := [] }) ∧
      (∀ n : InLine, ins[n] = { s.line.ins[n] with
        cfg := { (s.line.ins[n]).cfg with trigger := none }
        counter := 0 }) ∧
      exec (.clearAll b) s = .next { s with
        lc :=
          { entries := Vector.replicate 64
              { timing := .free
                defn := { cls := 0, delivery := .silent, policy := .keep, output := none, delay := 0, period := none,
                          repeatLimit := 0, followOn := none, staleLimit := 0 }
                due := none
                remaining := 0
                occurrence := 0 }
            dueList := []
            latches := Vector.replicate 4 none
            owed := false
            slot := none
            work := .rest
            opResult := if s.lc.slot.isSome then .aborted else s.lc.opResult }
        du := { s.du with pool := [], held := [], stack := [], staleOwed := false, overrunOwed := false }
        line := { outs := outs, ins := ins, captures := [] }
        alert := { s.alert with missLog := [], causes := 0 }
        win := { s.win with collision := false }
        link := { s.link with posts := [], actions := [] } }

/-- The plain registers (R94, R154, R156, R166, R167): what each write leaves, what STAGE DATA reads drive and how the
pointer moves; nothing else changes. That the byte driven is kept in a field is the model's choice, log entry 16; a mask
write and a clear of causes come after the whole of a tick already taken, log entry 8. -/
def Obligations.PlainRegisterCommands : Prop :=
  ∀ (s : State) (b : Byte), s.Live →
    exec (.classMask b) s = .next { s.finishTick with du := { s.finishTick.du with classMask := b } } ∧
    (∃ causes : Byte, exec (.alertClear b) s =
        .next { s.finishTick with alert := { s.finishTick.alert with causes := causes } } ∧
      ∀ n : Fin 8, causes.getLsbD n = (s.finishTick.alert.causes.getLsbD n && !b.getLsbD n)) ∧
    exec (.alertEnable b) s = .next { s with alert := { s.alert with enables := b } } ∧
    (∃ p : BitVec 4, p.toNat = b.toNat % 16 ∧
      exec (.stagePointer b) s = .next { s with win := { s.win with stagePtr := p } }) ∧
    (∃ staging : Image, staging[s.win.stagePtr.toNat] = b ∧
      (∀ i : Fin 16, i.val ≠ s.win.stagePtr.toNat → staging[i] = s.win.staging[i]) ∧
      exec (.stageDataWrite b) s = .next { s with win := { s.win with
        staging := staging
        stagePtr := s.win.stagePtr + 1 } }) ∧
    exec .stageDataRead s = .next { s with win := { s.win with
      readData := some s.win.staging[s.win.stagePtr.toNat]
      stagePtr := s.win.stagePtr + 1 } } ∧
    exec (.registerWrite 0x2 b) s = .next { s with win := { s.win with entrySelect := b } } ∧
    (∃ (source : BitVec 3) (index : BitVec 5), source.toNat = b.toNat / 32 ∧ index.toNat = b.toNat % 32 ∧
      exec (.registerWrite 0x6 b) s = .next { s with win := { s.win with viewSource := source, viewIndex := index } }) ∧
    exec (.registerWrite 0x7 b) s = .next s

/-- Each address routes its write and its read (R162, R163, R166, R167, R172): a write cycle has the effect of the row that
its address and bits belong to (log entry 17), and the registers that read back read as they stand (log entry 16) after the
whole of a tick already taken (log entry 8). -/
def Obligations.AddressesRouteWritesAndReads : Prop :=
  (∀ (s : State) (b : Byte), s.Live →
    exec (.registerWrite 0x0 b) s = exec (.enable b) s ∧ exec (.registerWrite 0x1 b) s = exec (.operation b) s ∧
    exec (.registerWrite 0x3 b) s = exec (.stagePointer b) s ∧
    exec (.registerWrite 0x4 b) s = exec (.stageDataWrite b) s ∧ exec (.registerWrite 0x5 b) s = exec (.done b) s ∧
    exec (.registerWrite 0x8 b) s = exec (.classMask b) s ∧ exec (.registerWrite 0x9 b) s = exec (.alertClear b) s ∧
    exec (.registerWrite 0xA b) s = exec (.alertEnable b) s ∧ exec (.registerWrite 0xB b) s = exec (.outputSet b) s ∧
    exec (.registerWrite 0xC b) s = exec (.outputClear b) s ∧
    exec (.registerWrite 0xD b) s = exec (if b.getLsbD 1 then .capture (b.getLsbD 0)
      else if b.getLsbD 0 then .runStart else .runStop) s ∧
    exec (.registerWrite 0xE b) s = exec (.divisorLow b) s ∧ exec (.registerWrite 0xF b) s = exec (.divisorHigh b) s) ∧
  (∀ s : State, s.Live →
    s.busRead 0x1 = some s.lc.opResult.code ∧ s.busRead 0x2 = some s.win.entrySelect ∧
    (∃ b : Byte, s.busRead 0x3 = some b ∧ b.toNat = s.win.stagePtr.toNat) ∧
    s.busRead 0x4 = some s.win.staging[s.win.stagePtr.toNat] ∧ s.busRead 0x5 = some s.finishTick.vectorValue ∧
    (∃ b : Byte, s.busRead 0x6 = some b ∧ b.toNat = 32 * s.win.viewSource.toNat + s.win.viewIndex.toNat) ∧
    s.busRead 0x7 = some (s.finishTick.viewAt s.win.viewSource s.win.viewIndex.toNat) ∧
    s.busRead 0x8 = some s.du.classMask ∧ s.busRead 0x9 = some s.finishTick.alert.causes ∧
    s.busRead 0xA = some s.alert.enables ∧
    (∃ b : Byte, s.busRead 0xC = some b ∧
      ∀ n : Fin 8, b.getLsbD n = if h : n.val < 4 then (s.line.ins[n.val]).lastLevel else false) ∧
    (∃ b : Byte, s.busRead 0xD = some b ∧ b.toNat = s.time.run.toNat))

/-- A read of VIEW DATA (R167) and the layouts of the views (R97, R118, R119, R141, R151, R171). The byte is read after the
whole of a tick already taken (log entry 8) and kept in a field (log entry 16). -/
def Obligations.ViewsShowTheirLayouts : Prop :=
  (∀ s : State, s.Live →
    let q := s.finishTick
    exec .viewData s = .next { q with win := { q.win with
      readData := some (q.viewAt s.win.viewSource s.win.viewIndex.toNat)
      viewIndex := s.win.viewIndex + 1 } }) ∧
  (∀ s : State,
    let v := s.viewAt
    let two (k : BitVec 3) (i : Nat) : Half := v k (i + 1) ++ v k i
    let four (k : BitVec 3) (i : Nat) : Word := v k (i + 3) ++ v k (i + 2) ++ v k (i + 1) ++ v k i
    (∀ i, (v 0 (21 + i) = 0 ∧ v 1 (9 + i) = 0 ∧ v 2 (10 + i) = 0 ∧ v 3 (6 + i) = 0 ∧ v 4 (9 + i) = 0 ∧
      v 5 (11 + i) = 0 ∧ v 6 i = 0 ∧ v 7 i = 0)) ∧
    (s.du.stack = [] → ∀ i, v 0 i = 0) ∧
    (∀ top rest, s.du.stack = top :: rest →
      v 0 0 = BitVec.ofNat 8 s.du.stack.length ∧ (v 0 1).toNat = top.entry.val ∧ (v 0 2).toNat = top.cls.val ∧
      two 0 3 = top.firstOcc ∧ four 0 5 = top.due ∧ four 0 9 = top.expiry ∧ four 0 13 = top.ackTime ∧
      v 0 17 = top.overrun ∧ two 0 18 = top.elapsed ∧ (v 0 20).toNat = top.overrunFlag.toNat) ∧
    v 1 0 = BitVec.ofNat 8 s.du.stack.length ∧
    (∀ i : Fin 4,
      (∀ r, s.du.stack.reverse[i.val]? = some r →
        (v 1 (1 + 2 * i.val)).toNat = r.entry.val ∧ (v 1 (2 + 2 * i.val)).toNat = r.cls.val) ∧
      (s.du.stack.length ≤ i.val → v 1 (1 + 2 * i.val) = 0 ∧ v 1 (2 + 2 * i.val) = 0)) ∧
    v 2 0 = BitVec.ofNat 8 s.du.pool.length ∧ v 2 1 = BitVec.ofNat 8 s.du.held.length ∧
    (∀ c : ClassNo, v 2 (2 + c.val) = BitVec.ofNat 8 (s.du.pool.filter fun r => r.cls = c).length) ∧
    four 3 0 = s.time.snapCount ∧ two 3 4 = s.time.snapPhase ∧
    (s.line.captures = [] → ∀ i, v 4 i = 0) ∧
    (∀ r rest, s.line.captures = r :: rest →
      v 4 0 = BitVec.ofNat 8 s.line.captures.length ∧ (v 4 1).toNat = r.line.val ∧
      v 4 2 = (match r.edge with | .rising => 1 | .falling => 2) ∧ four 4 3 = r.count ∧ two 4 7 = r.phase) ∧
    (s.alert.missLog = [] → ∀ i, v 5 i = 0) ∧
    (∀ r rest, s.alert.missLog = r :: rest →
      v 5 0 = BitVec.ofNat 8 s.alert.missLog.length ∧ v 5 1 = (match r.reason with | .stale => 1 | .withdrawn => 2) ∧
      (v 5 2).toNat = r.entry.val ∧ (v 5 3).toNat = r.cls.val ∧ two 5 4 = r.firstOcc ∧ four 5 6 = r.due ∧
      v 5 10 = r.overrun))

/-! ## Reset -/

/-- Hardware reset and its end (R1, R34, R38, R68, R98, R120, R131, R134, R145, R158, R173): every block takes its reset
values, whatever the state was; the pins of the input lines are the outside's, and at the negation each last level is
taken from its pin (log entry 18). The machine after reset, with every pin low: the model's choice for the pins, log entry
1. -/
def Obligations.HardwareResetValues : Prop :=
  (∀ s : State, ∃ t, exec .hardwareReset s = .next t ∧
    t.time = { phase := 0, activeDivisor := 0, stagedDivisor := 0, lowHold := 0, count := 0, run := false, snapCount := 0,
               snapPhase := 0 } ∧
    (∀ e, (t.entry e).timing = .free ∧ (t.entry e).due = none ∧ (t.entry e).remaining = 0 ∧
      (t.entry e).occurrence = 0 ∧ (t.entry e).defn =
        { cls := 0, delivery := .silent, policy := .keep, output := none, delay := 0, period := none, repeatLimit := 0,
          followOn := none, staleLimit := 0 }) ∧
    t.lc.dueList = [] ∧ (∀ n : InLine, t.lc.latches[n] = none) ∧ t.lc.owed = false ∧ t.lc.slot = none ∧
    t.lc.work = .rest ∧ t.lc.opResult = .complete ∧
    t.link = { ticksToList := 0, ticksToDispatch := 0, ticksToLine := 0, posts := [], actions := [] } ∧
    t.du.pool = [] ∧ t.du.held = [] ∧ t.du.stack = [] ∧ t.du.classMask = 0xFF ∧ t.du.enable = false ∧
    (∀ c : ClassNo, t.du.limits[c] = 0) ∧ t.du.staleOwed = false ∧ t.du.overrunOwed = false ∧
    (∀ l : OutLine, t.line.outs[l] = { base := false, holders := [] }) ∧
    (∀ n : InLine, t.line.ins[n] = { s.line.ins[n] with
      cfg := { edgeSelect := .none, captureOn := false, trigger := none, holdOff := 0 }
      counter := 0 }) ∧
    t.line.captures = [] ∧ t.alert = { missLog := [], causes := 0, enables := 0 } ∧
    (∀ i : Fin 16, t.win.staging[i] = 0) ∧ t.win.stagePtr = 0 ∧ t.win.entrySelect = 0 ∧ t.win.viewSource = 0 ∧
    t.win.viewIndex = 0 ∧ t.win.collision = false ∧ t.win.readData = none ∧ t.win.resetAsserted = true ∧
    t.intAsserted = false ∧ t.alertAsserted = false) ∧
  (∀ s : State, s.win.resetAsserted = true → ∃ t, exec .resetNegation s = .next t ∧
    (∀ n : InLine, t.line.ins[n] = { s.line.ins[n] with lastLevel := (s.line.ins[n]).pin }) ∧
    t = { s with
      win := { s.win with resetAsserted := false }
      line := { s.line with ins := t.line.ins } }) ∧
  (∀ s : State, s.Live → exec .resetNegation s = .next s) ∧
  (∀ s : State, (∀ n : InLine, (s.line.ins[n]).pin = false) →
    { s.hardwareReset.negateReset with pending := [] } = State.reset)

/-! ## Invariants -/

/-- The machine right after reset meets every law. -/
def Obligations.ResetMeetsTheLaws : Prop := MachineLaw State.reset

/-- Every step keeps the bounds of the pool, the held queue, the in-service stack, the capture queue and the miss log, the
strictly decreasing classes of the stack (R78, R82, R84, R101, R139, R149), and, which the bound of the held queue rests on,
one waiting record at most for each entry (R80). -/
def Obligations.QueuesKeepTheirBounds : Prop := StepKeeps fun s => QueueLaw s ∧ s.WaitingOnce

/-- Every step keeps what the list controller owns in order: the due list holds exactly the ARMED entries, each once (R35),
the run state fits the timing state (R21, R22, R34), every definition is legal (R16 to R20), no reference names a FREE
entry (R24), and the controller has in hand what its arbiter may choose, in a phase of its own (R47, R56, R59, R62). -/
def Obligations.ListControllerKeepsItsLaws : Prop :=
  StepKeeps fun s => DueLaw s ∧ DefinitionLaw s ∧ ReferenceLaw s ∧ ControllerLaw s

/-- Every step keeps all the laws of the machine together: with those above, the records and post requests match the
definitions of their entries (R79), an entry has at most one waiting record and one in service (R80), a PULSE goes with its
post request (R124), an entry that holds a line has a record that names the line (R126), the remaining of an armed limited
entry is 1 to its limit (R22), and RESET* holds every block at its reset values (R173). -/
def Obligations.EveryStepKeepsTheMachineLaw : Prop := StepKeeps MachineLaw

/-- Miss records and capture records are history (R139, R152): no command changes, removes or reorders one, but a pop,
which removes the head, clear-all and hardware reset; new ones join at the tail. The miss records of a tick already taken
join before a pop (log entry 8). -/
def Obligations.LogsAreHistory : Prop :=
  ∀ (c : Instr) (s t : State), exec c s = .next t →
    let kept := s.alert.missLog <+: t.alert.missLog ∧ s.line.captures <+: t.line.captures
    let log := s.finishTick.alert.missLog
    let written (b : Byte) := b.getLsbD 1 = false → s.alert.missLog <+: log ∧
      t.alert.missLog = (if b.getLsbD 4 then log.tail else log) ∧
      t.line.captures = (if b.getLsbD 3 then s.line.captures.tail else s.line.captures)
    match c with
    | .enable b | .clearAll b | .clearCollision b | .popCapture b | .popMiss b => s.Live → written b
    | .registerWrite a b => if a = 0 then s.Live → written b else kept
    | .hardwareReset => True
    | _ => kept
end

