-- ==== Sys2Proof/Laws/State.lean ====
section
/-! SUPPORT. What each named operation leaves alone: for each operation, one lemma per block of State that it does not
touch. A later proof cites these and does not unfold the operation. -/

namespace Sys2Proof.Machine

/-- A fold of steps that each keep a view of the state keeps it. -/
theorem foldl_frame {α β : Type} (f : State → α → State) (g : State → β) (h : ∀ s a, g (f s a) = g s) :
    ∀ (l : List α) (s : State), g (l.foldl f s) = g s
  | [], _ => rfl
  | a :: l, s => by rw [List.foldl_cons, foldl_frame f g h l, h]

/-! ## Time base, alerts, output lines, dispatch unit -/

@[simp] theorem State.makeTick_lc (s : State) : s.makeTick.lc = s.lc := rfl
@[simp] theorem State.makeTick_du (s : State) : s.makeTick.du = s.du := rfl
@[simp] theorem State.makeTick_line (s : State) : s.makeTick.line = s.line := rfl
@[simp] theorem State.makeTick_alert (s : State) : s.makeTick.alert = s.alert := rfl
@[simp] theorem State.makeTick_win (s : State) : s.makeTick.win = s.win := rfl
@[simp] theorem State.makeTick_pending (s : State) : s.makeTick.pending = s.pending := rfl

@[simp] theorem State.tbclk_lc (s : State) : s.tbclk.lc = s.lc := by unfold State.tbclk; repeat (first | rfl | split)
@[simp] theorem State.tbclk_du (s : State) : s.tbclk.du = s.du := by unfold State.tbclk; repeat (first | rfl | split)
@[simp] theorem State.tbclk_line (s : State) :
    s.tbclk.line = s.line := by unfold State.tbclk; repeat (first | rfl | split)
@[simp] theorem State.tbclk_alert (s : State) :
    s.tbclk.alert = s.alert := by unfold State.tbclk; repeat (first | rfl | split)
@[simp] theorem State.tbclk_win (s : State) :
    s.tbclk.win = s.win := by unfold State.tbclk; repeat (first | rfl | split)
@[simp] theorem State.tbclk_pending (s : State) :
    s.tbclk.pending = s.pending := by unfold State.tbclk; repeat (first | rfl | split)

@[simp] theorem State.timeControl_lc (s : State) (r c : Bool) : (s.timeControl r c).lc = s.lc := rfl
@[simp] theorem State.timeControl_link (s : State) (r c : Bool) : (s.timeControl r c).link = s.link := rfl
@[simp] theorem State.timeControl_du (s : State) (r c : Bool) : (s.timeControl r c).du = s.du := rfl
@[simp] theorem State.timeControl_line (s : State) (r c : Bool) : (s.timeControl r c).line = s.line := rfl
@[simp] theorem State.timeControl_alert (s : State) (r c : Bool) : (s.timeControl r c).alert = s.alert := rfl
@[simp] theorem State.timeControl_win (s : State) (r c : Bool) : (s.timeControl r c).win = s.win := rfl
@[simp] theorem State.timeControl_pending (s : State) (r c : Bool) : (s.timeControl r c).pending = s.pending := rfl

@[simp] theorem State.divisorLow_lc (s : State) (b : Byte) : (s.divisorLow b).lc = s.lc := rfl
@[simp] theorem State.divisorLow_link (s : State) (b : Byte) : (s.divisorLow b).link = s.link := rfl
@[simp] theorem State.divisorLow_du (s : State) (b : Byte) : (s.divisorLow b).du = s.du := rfl
@[simp] theorem State.divisorLow_line (s : State) (b : Byte) : (s.divisorLow b).line = s.line := rfl
@[simp] theorem State.divisorLow_alert (s : State) (b : Byte) : (s.divisorLow b).alert = s.alert := rfl
@[simp] theorem State.divisorLow_win (s : State) (b : Byte) : (s.divisorLow b).win = s.win := rfl
@[simp] theorem State.divisorLow_pending (s : State) (b : Byte) : (s.divisorLow b).pending = s.pending := rfl

@[simp] theorem State.divisorHigh_lc (s : State) (b : Byte) : (s.divisorHigh b).lc = s.lc := rfl
@[simp] theorem State.divisorHigh_link (s : State) (b : Byte) : (s.divisorHigh b).link = s.link := rfl
@[simp] theorem State.divisorHigh_du (s : State) (b : Byte) : (s.divisorHigh b).du = s.du := rfl
@[simp] theorem State.divisorHigh_line (s : State) (b : Byte) : (s.divisorHigh b).line = s.line := rfl
@[simp] theorem State.divisorHigh_alert (s : State) (b : Byte) : (s.divisorHigh b).alert = s.alert := rfl
@[simp] theorem State.divisorHigh_win (s : State) (b : Byte) : (s.divisorHigh b).win = s.win := rfl
@[simp] theorem State.divisorHigh_pending (s : State) (b : Byte) : (s.divisorHigh b).pending = s.pending := rfl

@[simp] theorem State.load_lc (s : State) (n : Word) : (s.load n).lc = s.lc := rfl
@[simp] theorem State.load_link (s : State) (n : Word) : (s.load n).link = s.link := rfl
@[simp] theorem State.load_du (s : State) (n : Word) : (s.load n).du = s.du := rfl
@[simp] theorem State.load_line (s : State) (n : Word) : (s.load n).line = s.line := rfl
@[simp] theorem State.load_alert (s : State) (n : Word) : (s.load n).alert = s.alert := rfl
@[simp] theorem State.load_win (s : State) (n : Word) : (s.load n).win = s.win := rfl
@[simp] theorem State.load_pending (s : State) (n : Word) : (s.load n).pending = s.pending := rfl

@[simp] theorem State.setCause_time (s : State) (c : Cause) : (s.setCause c).time = s.time := rfl
@[simp] theorem State.setCause_lc (s : State) (c : Cause) : (s.setCause c).lc = s.lc := rfl
@[simp] theorem State.setCause_link (s : State) (c : Cause) : (s.setCause c).link = s.link := rfl
@[simp] theorem State.setCause_du (s : State) (c : Cause) : (s.setCause c).du = s.du := rfl
@[simp] theorem State.setCause_line (s : State) (c : Cause) : (s.setCause c).line = s.line := rfl
@[simp] theorem State.setCause_win (s : State) (c : Cause) : (s.setCause c).win = s.win := rfl
@[simp] theorem State.setCause_pending (s : State) (c : Cause) : (s.setCause c).pending = s.pending := rfl

@[simp] theorem State.logMiss_time (s : State) (m : MissRecord) :
    (s.logMiss m).time = s.time := by unfold State.logMiss; split <;> rfl
@[simp] theorem State.logMiss_lc (s : State) (m : MissRecord) :
    (s.logMiss m).lc = s.lc := by unfold State.logMiss; split <;> rfl
@[simp] theorem State.logMiss_link (s : State) (m : MissRecord) :
    (s.logMiss m).link = s.link := by unfold State.logMiss; split <;> rfl
@[simp] theorem State.logMiss_du (s : State) (m : MissRecord) :
    (s.logMiss m).du = s.du := by unfold State.logMiss; split <;> rfl
@[simp] theorem State.logMiss_line (s : State) (m : MissRecord) :
    (s.logMiss m).line = s.line := by unfold State.logMiss; split <;> rfl
@[simp] theorem State.logMiss_win (s : State) (m : MissRecord) :
    (s.logMiss m).win = s.win := by unfold State.logMiss; split <;> rfl
@[simp] theorem State.logMiss_pending (s : State) (m : MissRecord) :
    (s.logMiss m).pending = s.pending := by unfold State.logMiss; split <;> rfl

@[simp] theorem State.setOut_time (s : State) (l : OutLine) (o : OutputLine) : (s.setOut l o).time = s.time := rfl
@[simp] theorem State.setOut_lc (s : State) (l : OutLine) (o : OutputLine) : (s.setOut l o).lc = s.lc := rfl
@[simp] theorem State.setOut_link (s : State) (l : OutLine) (o : OutputLine) : (s.setOut l o).link = s.link := rfl
@[simp] theorem State.setOut_du (s : State) (l : OutLine) (o : OutputLine) : (s.setOut l o).du = s.du := rfl
@[simp] theorem State.setOut_alert (s : State) (l : OutLine) (o : OutputLine) : (s.setOut l o).alert = s.alert := rfl
@[simp] theorem State.setOut_win (s : State) (l : OutLine) (o : OutputLine) : (s.setOut l o).win = s.win := rfl
@[simp] theorem State.setOut_pending (s : State) (l : OutLine) (o : OutputLine) :
    (s.setOut l o).pending = s.pending := rfl

@[simp] theorem State.releaseHolder_time (s : State) (l : OutLine) (e : EntryNo) :
    (s.releaseHolder l e).time = s.time := rfl
@[simp] theorem State.releaseHolder_lc (s : State) (l : OutLine) (e : EntryNo) :
    (s.releaseHolder l e).lc = s.lc := rfl
@[simp] theorem State.releaseHolder_link (s : State) (l : OutLine) (e : EntryNo) :
    (s.releaseHolder l e).link = s.link := rfl
@[simp] theorem State.releaseHolder_du (s : State) (l : OutLine) (e : EntryNo) :
    (s.releaseHolder l e).du = s.du := rfl
@[simp] theorem State.releaseHolder_alert (s : State) (l : OutLine) (e : EntryNo) :
    (s.releaseHolder l e).alert = s.alert := rfl
@[simp] theorem State.releaseHolder_win (s : State) (l : OutLine) (e : EntryNo) :
    (s.releaseHolder l e).win = s.win := rfl
@[simp] theorem State.releaseHolder_pending (s : State) (l : OutLine) (e : EntryNo) :
    (s.releaseHolder l e).pending = s.pending := rfl

@[simp] theorem State.perform_time (s : State) (a : ActionReq) : (s.perform a).time = s.time := by cases a <;> rfl
@[simp] theorem State.perform_lc (s : State) (a : ActionReq) : (s.perform a).lc = s.lc := by cases a <;> rfl
@[simp] theorem State.perform_link (s : State) (a : ActionReq) : (s.perform a).link = s.link := by cases a <;> rfl
@[simp] theorem State.perform_du (s : State) (a : ActionReq) : (s.perform a).du = s.du := by cases a <;> rfl
@[simp] theorem State.perform_alert (s : State) (a : ActionReq) : (s.perform a).alert = s.alert := by cases a <;> rfl
@[simp] theorem State.perform_win (s : State) (a : ActionReq) : (s.perform a).win = s.win := by cases a <;> rfl
@[simp] theorem State.perform_pending (s : State) (a : ActionReq) :
    (s.perform a).pending = s.pending := by cases a <;> rfl

@[simp] theorem State.performAll_time (s : State) (as : List ActionReq) :
    (s.performAll as).time = s.time := foldl_frame _ (·.time) (fun _ _ => by simp) _ _
@[simp] theorem State.performAll_lc (s : State) (as : List ActionReq) :
    (s.performAll as).lc = s.lc := foldl_frame _ (·.lc) (fun _ _ => by simp) _ _
@[simp] theorem State.performAll_link (s : State) (as : List ActionReq) :
    (s.performAll as).link = s.link := foldl_frame _ (·.link) (fun _ _ => by simp) _ _
@[simp] theorem State.performAll_du (s : State) (as : List ActionReq) :
    (s.performAll as).du = s.du := foldl_frame _ (·.du) (fun _ _ => by simp) _ _
@[simp] theorem State.performAll_alert (s : State) (as : List ActionReq) :
    (s.performAll as).alert = s.alert := foldl_frame _ (·.alert) (fun _ _ => by simp) _ _
@[simp] theorem State.performAll_win (s : State) (as : List ActionReq) :
    (s.performAll as).win = s.win := foldl_frame _ (·.win) (fun _ _ => by simp) _ _
@[simp] theorem State.performAll_pending (s : State) (as : List ActionReq) :
    (s.performAll as).pending = s.pending := foldl_frame _ (·.pending) (fun _ _ => by simp) _ _

@[simp] theorem State.outputSet_time (s : State) (b : Byte) : (s.outputSet b).time = s.time := rfl
@[simp] theorem State.outputSet_lc (s : State) (b : Byte) : (s.outputSet b).lc = s.lc := rfl
@[simp] theorem State.outputSet_link (s : State) (b : Byte) : (s.outputSet b).link = s.link := rfl
@[simp] theorem State.outputSet_du (s : State) (b : Byte) : (s.outputSet b).du = s.du := rfl
@[simp] theorem State.outputSet_alert (s : State) (b : Byte) : (s.outputSet b).alert = s.alert := rfl
@[simp] theorem State.outputSet_win (s : State) (b : Byte) : (s.outputSet b).win = s.win := rfl
@[simp] theorem State.outputSet_pending (s : State) (b : Byte) : (s.outputSet b).pending = s.pending := rfl

@[simp] theorem State.outputClear_time (s : State) (b : Byte) : (s.outputClear b).time = s.time := rfl
@[simp] theorem State.outputClear_lc (s : State) (b : Byte) : (s.outputClear b).lc = s.lc := rfl
@[simp] theorem State.outputClear_link (s : State) (b : Byte) : (s.outputClear b).link = s.link := rfl
@[simp] theorem State.outputClear_du (s : State) (b : Byte) : (s.outputClear b).du = s.du := rfl
@[simp] theorem State.outputClear_alert (s : State) (b : Byte) : (s.outputClear b).alert = s.alert := rfl
@[simp] theorem State.outputClear_win (s : State) (b : Byte) : (s.outputClear b).win = s.win := rfl
@[simp] theorem State.outputClear_pending (s : State) (b : Byte) : (s.outputClear b).pending = s.pending := rfl

@[simp] theorem State.releaseAfter_time (s : State) (e : EntryNo) (l : Option OutLine) :
    (s.releaseAfter e l).time = s.time := by unfold State.releaseAfter; repeat (first | rfl | split)
@[simp] theorem State.releaseAfter_lc (s : State) (e : EntryNo) (l : Option OutLine) :
    (s.releaseAfter e l).lc = s.lc := by unfold State.releaseAfter; repeat (first | rfl | split)
@[simp] theorem State.releaseAfter_link (s : State) (e : EntryNo) (l : Option OutLine) :
    (s.releaseAfter e l).link = s.link := by unfold State.releaseAfter; repeat (first | rfl | split)
@[simp] theorem State.releaseAfter_du (s : State) (e : EntryNo) (l : Option OutLine) :
    (s.releaseAfter e l).du = s.du := by unfold State.releaseAfter; repeat (first | rfl | split)
@[simp] theorem State.releaseAfter_alert (s : State) (e : EntryNo) (l : Option OutLine) :
    (s.releaseAfter e l).alert = s.alert := by unfold State.releaseAfter; repeat (first | rfl | split)
@[simp] theorem State.releaseAfter_win (s : State) (e : EntryNo) (l : Option OutLine) :
    (s.releaseAfter e l).win = s.win := by unfold State.releaseAfter; repeat (first | rfl | split)
@[simp] theorem State.releaseAfter_pending (s : State) (e : EntryNo) (l : Option OutLine) :
    (s.releaseAfter e l).pending = s.pending := by unfold State.releaseAfter; repeat (first | rfl | split)

@[simp] theorem State.refill_time (s : State) :
    s.refill.time = s.time := by unfold State.refill; repeat (first | rfl | split)
@[simp] theorem State.refill_lc (s : State) :
    s.refill.lc = s.lc := by unfold State.refill; repeat (first | rfl | split)
@[simp] theorem State.refill_link (s : State) :
    s.refill.link = s.link := by unfold State.refill; repeat (first | rfl | split)
@[simp] theorem State.refill_line (s : State) :
    s.refill.line = s.line := by unfold State.refill; repeat (first | rfl | split)
@[simp] theorem State.refill_alert (s : State) :
    s.refill.alert = s.alert := by unfold State.refill; repeat (first | rfl | split)
@[simp] theorem State.refill_win (s : State) :
    s.refill.win = s.win := by unfold State.refill; repeat (first | rfl | split)
@[simp] theorem State.refill_pending (s : State) :
    s.refill.pending = s.pending := by unfold State.refill; repeat (first | rfl | split)

@[simp] theorem State.withdrawHeld_time (s : State) (w : MissReason) (r : Record) :
    (s.withdrawHeld w r).time = s.time := by simp [State.withdrawHeld]
@[simp] theorem State.withdrawHeld_lc (s : State) (w : MissReason) (r : Record) :
    (s.withdrawHeld w r).lc = s.lc := by simp [State.withdrawHeld]
@[simp] theorem State.withdrawHeld_link (s : State) (w : MissReason) (r : Record) :
    (s.withdrawHeld w r).link = s.link := by simp [State.withdrawHeld]
@[simp] theorem State.withdrawHeld_win (s : State) (w : MissReason) (r : Record) :
    (s.withdrawHeld w r).win = s.win := by simp [State.withdrawHeld]
@[simp] theorem State.withdrawHeld_pending (s : State) (w : MissReason) (r : Record) :
    (s.withdrawHeld w r).pending = s.pending := by simp [State.withdrawHeld]

@[simp] theorem State.withdrawEvent_time (s : State) (w : MissReason) (r : Record) :
    (s.withdrawEvent w r).time = s.time := by simp [State.withdrawEvent]
@[simp] theorem State.withdrawEvent_lc (s : State) (w : MissReason) (r : Record) :
    (s.withdrawEvent w r).lc = s.lc := by simp [State.withdrawEvent]
@[simp] theorem State.withdrawEvent_link (s : State) (w : MissReason) (r : Record) :
    (s.withdrawEvent w r).link = s.link := by simp [State.withdrawEvent]
@[simp] theorem State.withdrawEvent_win (s : State) (w : MissReason) (r : Record) :
    (s.withdrawEvent w r).win = s.win := by simp [State.withdrawEvent]
@[simp] theorem State.withdrawEvent_pending (s : State) (w : MissReason) (r : Record) :
    (s.withdrawEvent w r).pending = s.pending := by simp [State.withdrawEvent]

@[simp] theorem State.withdrawStaleHeld_time (s : State) :
    s.withdrawStaleHeld.time = s.time := foldl_frame _ (·.time) (fun _ _ => by simp) _ _
@[simp] theorem State.withdrawStaleHeld_lc (s : State) :
    s.withdrawStaleHeld.lc = s.lc := foldl_frame _ (·.lc) (fun _ _ => by simp) _ _
@[simp] theorem State.withdrawStaleHeld_link (s : State) :
    s.withdrawStaleHeld.link = s.link := foldl_frame _ (·.link) (fun _ _ => by simp) _ _
@[simp] theorem State.withdrawStaleHeld_win (s : State) :
    s.withdrawStaleHeld.win = s.win := foldl_frame _ (·.win) (fun _ _ => by simp) _ _
@[simp] theorem State.withdrawStaleHeld_pending (s : State) :
    s.withdrawStaleHeld.pending = s.pending := foldl_frame _ (·.pending) (fun _ _ => by simp) _ _

@[simp] theorem State.withdrawStaleClass_time (s : State) (c : ClassNo) :
    (s.withdrawStaleClass c).time = s.time := foldl_frame _ (·.time) (fun _ _ => by simp) _ _
@[simp] theorem State.withdrawStaleClass_lc (s : State) (c : ClassNo) :
    (s.withdrawStaleClass c).lc = s.lc := foldl_frame _ (·.lc) (fun _ _ => by simp) _ _
@[simp] theorem State.withdrawStaleClass_link (s : State) (c : ClassNo) :
    (s.withdrawStaleClass c).link = s.link := foldl_frame _ (·.link) (fun _ _ => by simp) _ _
@[simp] theorem State.withdrawStaleClass_win (s : State) (c : ClassNo) :
    (s.withdrawStaleClass c).win = s.win := foldl_frame _ (·.win) (fun _ _ => by simp) _ _
@[simp] theorem State.withdrawStaleClass_pending (s : State) (c : ClassNo) :
    (s.withdrawStaleClass c).pending = s.pending := foldl_frame _ (·.pending) (fun _ _ => by simp) _ _

@[simp] theorem State.withdrawStale_time (s : State) : s.withdrawStale.time = s.time := by
  have h : (allClasses.foldl State.withdrawStaleClass s.withdrawStaleHeld).time = s.time := by
    rw [foldl_frame _ (·.time) (fun _ _ => by simp)]; simp
  unfold State.withdrawStale; dsimp only; split <;> simp [h]
@[simp] theorem State.withdrawStale_lc (s : State) : s.withdrawStale.lc = s.lc := by
  have h : (allClasses.foldl State.withdrawStaleClass s.withdrawStaleHeld).lc = s.lc := by
    rw [foldl_frame _ (·.lc) (fun _ _ => by simp)]; simp
  unfold State.withdrawStale; dsimp only; split <;> simp [h]
@[simp] theorem State.withdrawStale_link (s : State) : s.withdrawStale.link = s.link := by
  have h : (allClasses.foldl State.withdrawStaleClass s.withdrawStaleHeld).link = s.link := by
    rw [foldl_frame _ (·.link) (fun _ _ => by simp)]; simp
  unfold State.withdrawStale; dsimp only; split <;> simp [h]
@[simp] theorem State.withdrawStale_win (s : State) : s.withdrawStale.win = s.win := by
  have h : (allClasses.foldl State.withdrawStaleClass s.withdrawStaleHeld).win = s.win := by
    rw [foldl_frame _ (·.win) (fun _ _ => by simp)]; simp
  unfold State.withdrawStale; dsimp only; split <;> simp [h]
@[simp] theorem State.withdrawStale_pending (s : State) : s.withdrawStale.pending = s.pending := by
  have h : (allClasses.foldl State.withdrawStaleClass s.withdrawStaleHeld).pending = s.pending := by
    rw [foldl_frame _ (·.pending) (fun _ _ => by simp)]; simp
  unfold State.withdrawStale; dsimp only; split <;> simp [h]

@[simp] theorem State.checkService_time (s : State) :
    s.checkService.time = s.time := by unfold State.checkService; dsimp only; split <;> rfl
@[simp] theorem State.checkService_lc (s : State) :
    s.checkService.lc = s.lc := by unfold State.checkService; dsimp only; split <;> rfl
@[simp] theorem State.checkService_link (s : State) :
    s.checkService.link = s.link := by unfold State.checkService; dsimp only; split <;> rfl
@[simp] theorem State.checkService_line (s : State) :
    s.checkService.line = s.line := by unfold State.checkService; dsimp only; split <;> rfl
@[simp] theorem State.checkService_win (s : State) :
    s.checkService.win = s.win := by unfold State.checkService; dsimp only; split <;> rfl
@[simp] theorem State.checkService_pending (s : State) :
    s.checkService.pending = s.pending := by unfold State.checkService; dsimp only; split <;> rfl

@[simp] theorem State.finishStale_time (s : State) :
    s.finishStale.time = s.time := by unfold State.finishStale; split <;> simp
@[simp] theorem State.finishStale_lc (s : State) :
    s.finishStale.lc = s.lc := by unfold State.finishStale; split <;> simp
@[simp] theorem State.finishStale_link (s : State) :
    s.finishStale.link = s.link := by unfold State.finishStale; split <;> simp
@[simp] theorem State.finishStale_win (s : State) :
    s.finishStale.win = s.win := by unfold State.finishStale; split <;> simp
@[simp] theorem State.finishStale_pending (s : State) :
    s.finishStale.pending = s.pending := by unfold State.finishStale; split <;> simp

@[simp] theorem State.finishOverrun_time (s : State) :
    s.finishOverrun.time = s.time := by unfold State.finishOverrun; split <;> simp
@[simp] theorem State.finishOverrun_lc (s : State) :
    s.finishOverrun.lc = s.lc := by unfold State.finishOverrun; split <;> simp
@[simp] theorem State.finishOverrun_link (s : State) :
    s.finishOverrun.link = s.link := by unfold State.finishOverrun; split <;> simp
@[simp] theorem State.finishOverrun_line (s : State) :
    s.finishOverrun.line = s.line := by unfold State.finishOverrun; split <;> simp
@[simp] theorem State.finishOverrun_win (s : State) :
    s.finishOverrun.win = s.win := by unfold State.finishOverrun; split <;> simp
@[simp] theorem State.finishOverrun_pending (s : State) :
    s.finishOverrun.pending = s.pending := by unfold State.finishOverrun; split <;> simp

@[simp] theorem State.finishTick_time (s : State) : s.finishTick.time = s.time := by simp [State.finishTick]
@[simp] theorem State.finishTick_lc (s : State) : s.finishTick.lc = s.lc := by simp [State.finishTick]
@[simp] theorem State.finishTick_link (s : State) : s.finishTick.link = s.link := by simp [State.finishTick]
@[simp] theorem State.finishTick_win (s : State) : s.finishTick.win = s.win := by simp [State.finishTick]
@[simp] theorem State.finishTick_pending (s : State) : s.finishTick.pending = s.pending := by simp [State.finishTick]

@[simp] theorem State.takeDispatchTick_time (s : State) :
    s.takeDispatchTick.time = s.time := by simp [State.takeDispatchTick]
@[simp] theorem State.takeDispatchTick_lc (s : State) :
    s.takeDispatchTick.lc = s.lc := by simp [State.takeDispatchTick]
@[simp] theorem State.takeDispatchTick_win (s : State) :
    s.takeDispatchTick.win = s.win := by simp [State.takeDispatchTick]
@[simp] theorem State.takeDispatchTick_pending (s : State) :
    s.takeDispatchTick.pending = s.pending := by simp [State.takeDispatchTick]

@[simp] theorem State.postCase_time (s : State) (p : PostReq) :
    (s.postCase p).time = s.time := by unfold State.postCase; repeat (first | rfl | split)
@[simp] theorem State.postCase_lc (s : State) (p : PostReq) :
    (s.postCase p).lc = s.lc := by unfold State.postCase; repeat (first | rfl | split)
@[simp] theorem State.postCase_link (s : State) (p : PostReq) :
    (s.postCase p).link = s.link := by unfold State.postCase; repeat (first | rfl | split)
@[simp] theorem State.postCase_line (s : State) (p : PostReq) :
    (s.postCase p).line = s.line := by unfold State.postCase; repeat (first | rfl | split)
@[simp] theorem State.postCase_win (s : State) (p : PostReq) :
    (s.postCase p).win = s.win := by unfold State.postCase; repeat (first | rfl | split)
@[simp] theorem State.postCase_pending (s : State) (p : PostReq) :
    (s.postCase p).pending = s.pending := by unfold State.postCase; repeat (first | rfl | split)

@[simp] theorem State.takePulse_time (s : State) : s.takePulse.time = s.time := by simp [State.takePulse]
@[simp] theorem State.takePulse_lc (s : State) : s.takePulse.lc = s.lc := by simp [State.takePulse]
@[simp] theorem State.takePulse_du (s : State) : s.takePulse.du = s.du := by simp [State.takePulse]
@[simp] theorem State.takePulse_alert (s : State) : s.takePulse.alert = s.alert := by simp [State.takePulse]
@[simp] theorem State.takePulse_win (s : State) : s.takePulse.win = s.win := by simp [State.takePulse]
@[simp] theorem State.takePulse_pending (s : State) : s.takePulse.pending = s.pending := by simp [State.takePulse]

@[simp] theorem State.takePost_time (s : State) (p : PostReq) :
    (s.takePost p).time = s.time := by unfold State.takePost; split <;> simp
@[simp] theorem State.takePost_lc (s : State) (p : PostReq) :
    (s.takePost p).lc = s.lc := by unfold State.takePost; split <;> simp
@[simp] theorem State.takePost_win (s : State) (p : PostReq) :
    (s.takePost p).win = s.win := by unfold State.takePost; split <;> simp
@[simp] theorem State.takePost_pending (s : State) (p : PostReq) :
    (s.takePost p).pending = s.pending := by unfold State.takePost; split <;> simp

@[simp] theorem State.takeNextPost_time (s : State) :
    s.takeNextPost.time = s.time := by unfold State.takeNextPost; dsimp only; split <;> simp
@[simp] theorem State.takeNextPost_lc (s : State) :
    s.takeNextPost.lc = s.lc := by unfold State.takeNextPost; dsimp only; split <;> simp
@[simp] theorem State.takeNextPost_win (s : State) :
    s.takeNextPost.win = s.win := by unfold State.takeNextPost; dsimp only; split <;> simp
@[simp] theorem State.takeNextPost_pending (s : State) :
    s.takeNextPost.pending = s.pending := by unfold State.takeNextPost; dsimp only; split <;> simp

@[simp] theorem State.takeAllPosts_time (s : State) : s.takeAllPosts.time = s.time := by
  unfold State.takeAllPosts; dsimp only; rw [foldl_frame _ (·.time) (fun _ _ => by simp)]; simp
@[simp] theorem State.takeAllPosts_lc (s : State) : s.takeAllPosts.lc = s.lc := by
  unfold State.takeAllPosts; dsimp only; rw [foldl_frame _ (·.lc) (fun _ _ => by simp)]; simp
@[simp] theorem State.takeAllPosts_win (s : State) : s.takeAllPosts.win = s.win := by
  unfold State.takeAllPosts; dsimp only; rw [foldl_frame _ (·.win) (fun _ _ => by simp)]; simp
@[simp] theorem State.takeAllPosts_pending (s : State) : s.takeAllPosts.pending = s.pending := by
  unfold State.takeAllPosts; dsimp only; rw [foldl_frame _ (·.pending) (fun _ _ => by simp)]; simp

@[simp] theorem State.takeNextAction_time (s : State) : s.takeNextAction.time = s.time := by
  unfold State.takeNextAction; split
  · rfl
  · dsimp only; simp only [State.perform_time]; rw [foldl_frame _ (·.time) (fun _ _ => by simp)]; simp
  · simp
@[simp] theorem State.takeNextAction_lc (s : State) : s.takeNextAction.lc = s.lc := by
  unfold State.takeNextAction; split
  · rfl
  · dsimp only; simp only [State.perform_lc]; rw [foldl_frame _ (·.lc) (fun _ _ => by simp)]; simp
  · simp
@[simp] theorem State.takeNextAction_win (s : State) : s.takeNextAction.win = s.win := by
  unfold State.takeNextAction; split
  · rfl
  · dsimp only; simp only [State.perform_win]; rw [foldl_frame _ (·.win) (fun _ _ => by simp)]; simp
  · simp
@[simp] theorem State.takeNextAction_pending (s : State) : s.takeNextAction.pending = s.pending := by
  unfold State.takeNextAction; split
  · rfl
  · dsimp only; simp only [State.perform_pending]; rw [foldl_frame _ (·.pending) (fun _ _ => by simp)]; simp
  · simp

@[simp] theorem State.takeCancel_time (s : State) (e : EntryNo) (w : Bool) : (s.takeCancel e w).time = s.time := by
  unfold State.takeCancel; dsimp only
  split
  · rw [foldl_frame _ (·.time) (fun _ _ => by simp), foldl_frame _ (·.time) (fun _ _ => by simp)]
  · rw [foldl_frame _ (·.time) (fun _ _ => by simp)]
@[simp] theorem State.takeCancel_lc (s : State) (e : EntryNo) (w : Bool) : (s.takeCancel e w).lc = s.lc := by
  unfold State.takeCancel; dsimp only
  split
  · rw [foldl_frame _ (·.lc) (fun _ _ => by simp), foldl_frame _ (·.lc) (fun _ _ => by simp)]
  · rw [foldl_frame _ (·.lc) (fun _ _ => by simp)]
@[simp] theorem State.takeCancel_link (s : State) (e : EntryNo) (w : Bool) : (s.takeCancel e w).link = s.link := by
  unfold State.takeCancel; dsimp only
  split
  · rw [foldl_frame _ (·.link) (fun _ _ => by simp), foldl_frame _ (·.link) (fun _ _ => by simp)]
  · rw [foldl_frame _ (·.link) (fun _ _ => by simp)]
@[simp] theorem State.takeCancel_win (s : State) (e : EntryNo) (w : Bool) : (s.takeCancel e w).win = s.win := by
  unfold State.takeCancel; dsimp only
  split
  · rw [foldl_frame _ (·.win) (fun _ _ => by simp), foldl_frame _ (·.win) (fun _ _ => by simp)]
  · rw [foldl_frame _ (·.win) (fun _ _ => by simp)]
@[simp] theorem State.takeCancel_pending (s : State) (e : EntryNo) (w : Bool) : (s.takeCancel e w).pending = s.pending := by
  unfold State.takeCancel; dsimp only
  split
  · rw [foldl_frame _ (·.pending) (fun _ _ => by simp), foldl_frame _ (·.pending) (fun _ _ => by simp)]
  · rw [foldl_frame _ (·.pending) (fun _ _ => by simp)]

@[simp] theorem State.takeClear_time (s : State) (c : ClassNo) : (s.takeClear c).time = s.time := by
  unfold State.takeClear; dsimp only
  rw [foldl_frame _ (·.time) (fun _ _ => by simp), foldl_frame _ (·.time) (fun _ _ => by simp)]
@[simp] theorem State.takeClear_lc (s : State) (c : ClassNo) : (s.takeClear c).lc = s.lc := by
  unfold State.takeClear; dsimp only
  rw [foldl_frame _ (·.lc) (fun _ _ => by simp), foldl_frame _ (·.lc) (fun _ _ => by simp)]
@[simp] theorem State.takeClear_link (s : State) (c : ClassNo) : (s.takeClear c).link = s.link := by
  unfold State.takeClear; dsimp only
  rw [foldl_frame _ (·.link) (fun _ _ => by simp), foldl_frame _ (·.link) (fun _ _ => by simp)]
@[simp] theorem State.takeClear_win (s : State) (c : ClassNo) : (s.takeClear c).win = s.win := by
  unfold State.takeClear; dsimp only
  rw [foldl_frame _ (·.win) (fun _ _ => by simp), foldl_frame _ (·.win) (fun _ _ => by simp)]
@[simp] theorem State.takeClear_pending (s : State) (c : ClassNo) : (s.takeClear c).pending = s.pending := by
  unfold State.takeClear; dsimp only
  rw [foldl_frame _ (·.pending) (fun _ _ => by simp), foldl_frame _ (·.pending) (fun _ _ => by simp)]

@[simp] theorem State.serve_time (s : State) (r : Record) : (s.serve r).time = s.time := by simp [State.serve]
@[simp] theorem State.serve_lc (s : State) (r : Record) : (s.serve r).lc = s.lc := by simp [State.serve]
@[simp] theorem State.serve_link (s : State) (r : Record) : (s.serve r).link = s.link := by simp [State.serve]
@[simp] theorem State.serve_line (s : State) (r : Record) : (s.serve r).line = s.line := by simp [State.serve]
@[simp] theorem State.serve_alert (s : State) (r : Record) : (s.serve r).alert = s.alert := by simp [State.serve]
@[simp] theorem State.serve_win (s : State) (r : Record) : (s.serve r).win = s.win := by simp [State.serve]
@[simp] theorem State.serve_pending (s : State) (r : Record) :
    (s.serve r).pending = s.pending := by simp [State.serve]

@[simp] theorem State.ackEffect_time (s : State) : s.ackEffect.time = s.time := by
  unfold State.ackEffect; split
  · rfl
  · split <;> simp
@[simp] theorem State.ackEffect_lc (s : State) : s.ackEffect.lc = s.lc := by
  unfold State.ackEffect; split
  · rfl
  · split <;> simp
@[simp] theorem State.ackEffect_link (s : State) : s.ackEffect.link = s.link := by
  unfold State.ackEffect; split
  · rfl
  · split <;> simp
@[simp] theorem State.ackEffect_line (s : State) : s.ackEffect.line = s.line := by
  unfold State.ackEffect; split
  · rfl
  · split <;> simp
@[simp] theorem State.ackEffect_alert (s : State) : s.ackEffect.alert = s.alert := by
  unfold State.ackEffect; split
  · rfl
  · split <;> simp
@[simp] theorem State.ackEffect_win (s : State) : s.ackEffect.win = s.win := by
  unfold State.ackEffect; split
  · rfl
  · split <;> simp
@[simp] theorem State.ackEffect_pending (s : State) : s.ackEffect.pending = s.pending := by
  unfold State.ackEffect; split
  · rfl
  · split <;> simp

@[simp] theorem State.drive_time (s : State) (v : Byte) : (s.drive v).time = s.time := rfl
@[simp] theorem State.drive_lc (s : State) (v : Byte) : (s.drive v).lc = s.lc := rfl
@[simp] theorem State.drive_link (s : State) (v : Byte) : (s.drive v).link = s.link := rfl
@[simp] theorem State.drive_du (s : State) (v : Byte) : (s.drive v).du = s.du := rfl
@[simp] theorem State.drive_line (s : State) (v : Byte) : (s.drive v).line = s.line := rfl
@[simp] theorem State.drive_alert (s : State) (v : Byte) : (s.drive v).alert = s.alert := rfl
@[simp] theorem State.drive_pending (s : State) (v : Byte) : (s.drive v).pending = s.pending := rfl

@[simp] theorem State.readVector_time (s : State) : s.readVector.time = s.time := by simp [State.readVector]
@[simp] theorem State.readVector_lc (s : State) : s.readVector.lc = s.lc := by simp [State.readVector]
@[simp] theorem State.readVector_link (s : State) : s.readVector.link = s.link := by simp [State.readVector]
@[simp] theorem State.readVector_pending (s : State) : s.readVector.pending = s.pending := by simp [State.readVector]

@[simp] theorem State.writeDone_time (s : State) (b : Byte) : (s.writeDone b).time = s.time := by
  unfold State.writeDone; dsimp only; split
  · simp
  · split <;> simp
@[simp] theorem State.writeDone_lc (s : State) (b : Byte) : (s.writeDone b).lc = s.lc := by
  unfold State.writeDone; dsimp only; split
  · simp
  · split <;> simp
@[simp] theorem State.writeDone_link (s : State) (b : Byte) : (s.writeDone b).link = s.link := by
  unfold State.writeDone; dsimp only; split
  · simp
  · split <;> simp
@[simp] theorem State.writeDone_win (s : State) (b : Byte) : (s.writeDone b).win = s.win := by
  unfold State.writeDone; dsimp only; split
  · simp
  · split <;> simp
@[simp] theorem State.writeDone_pending (s : State) (b : Byte) : (s.writeDone b).pending = s.pending := by
  unfold State.writeDone; dsimp only; split
  · simp
  · split <;> simp

@[simp] theorem State.takeLimit_time (s : State) (c : ClassNo) (n : Half) :
    (s.takeLimit c n).time = s.time := by simp [State.takeLimit]
@[simp] theorem State.takeLimit_lc (s : State) (c : ClassNo) (n : Half) :
    (s.takeLimit c n).lc = s.lc := by simp [State.takeLimit]
@[simp] theorem State.takeLimit_link (s : State) (c : ClassNo) (n : Half) :
    (s.takeLimit c n).link = s.link := by simp [State.takeLimit]
@[simp] theorem State.takeLimit_win (s : State) (c : ClassNo) (n : Half) :
    (s.takeLimit c n).win = s.win := by simp [State.takeLimit]
@[simp] theorem State.takeLimit_pending (s : State) (c : ClassNo) (n : Half) :
    (s.takeLimit c n).pending = s.pending := by simp [State.takeLimit]

@[simp] theorem State.writeMask_time (s : State) (b : Byte) : (s.writeMask b).time = s.time := by simp [State.writeMask]
@[simp] theorem State.writeMask_lc (s : State) (b : Byte) : (s.writeMask b).lc = s.lc := by simp [State.writeMask]
@[simp] theorem State.writeMask_link (s : State) (b : Byte) : (s.writeMask b).link = s.link := by simp [State.writeMask]
@[simp] theorem State.writeMask_win (s : State) (b : Byte) : (s.writeMask b).win = s.win := by simp [State.writeMask]
@[simp] theorem State.writeMask_pending (s : State) (b : Byte) : (s.writeMask b).pending = s.pending := by simp [State.writeMask]

/-! ## List controller -/

@[simp] theorem State.endWork_time (s : State) : s.endWork.time = s.time := rfl
@[simp] theorem State.endWork_link (s : State) : s.endWork.link = s.link := rfl
@[simp] theorem State.endWork_du (s : State) : s.endWork.du = s.du := rfl
@[simp] theorem State.endWork_line (s : State) : s.endWork.line = s.line := rfl
@[simp] theorem State.endWork_alert (s : State) : s.endWork.alert = s.alert := rfl
@[simp] theorem State.endWork_win (s : State) : s.endWork.win = s.win := rfl
@[simp] theorem State.endWork_pending (s : State) : s.endWork.pending = s.pending := rfl

@[simp] theorem State.wake_time (s : State) : s.wake.time = s.time := by unfold State.wake; split <;> rfl
@[simp] theorem State.wake_link (s : State) : s.wake.link = s.link := by unfold State.wake; split <;> rfl
@[simp] theorem State.wake_du (s : State) : s.wake.du = s.du := by unfold State.wake; split <;> rfl
@[simp] theorem State.wake_line (s : State) : s.wake.line = s.line := by unfold State.wake; split <;> rfl
@[simp] theorem State.wake_alert (s : State) : s.wake.alert = s.alert := by unfold State.wake; split <;> rfl
@[simp] theorem State.wake_win (s : State) : s.wake.win = s.win := by unfold State.wake; split <;> rfl
@[simp] theorem State.wake_pending (s : State) : s.wake.pending = s.pending := by unfold State.wake; split <;> rfl

@[simp] theorem State.setWork_time (s : State) (w : Work) : (s.setWork w).time = s.time := rfl
@[simp] theorem State.setWork_link (s : State) (w : Work) : (s.setWork w).link = s.link := rfl
@[simp] theorem State.setWork_du (s : State) (w : Work) : (s.setWork w).du = s.du := rfl
@[simp] theorem State.setWork_line (s : State) (w : Work) : (s.setWork w).line = s.line := rfl
@[simp] theorem State.setWork_alert (s : State) (w : Work) : (s.setWork w).alert = s.alert := rfl
@[simp] theorem State.setWork_win (s : State) (w : Work) : (s.setWork w).win = s.win := rfl
@[simp] theorem State.setWork_pending (s : State) (w : Work) : (s.setWork w).pending = s.pending := rfl

@[simp] theorem State.oweRun_time (s : State) : s.oweRun.time = s.time := rfl
@[simp] theorem State.oweRun_link (s : State) : s.oweRun.link = s.link := rfl
@[simp] theorem State.oweRun_du (s : State) : s.oweRun.du = s.du := rfl
@[simp] theorem State.oweRun_line (s : State) : s.oweRun.line = s.line := rfl
@[simp] theorem State.oweRun_alert (s : State) : s.oweRun.alert = s.alert := rfl
@[simp] theorem State.oweRun_win (s : State) : s.oweRun.win = s.win := rfl
@[simp] theorem State.oweRun_pending (s : State) : s.oweRun.pending = s.pending := rfl

@[simp] theorem State.takeListTick_time (s : State) : s.takeListTick.time = s.time := by simp [State.takeListTick]
@[simp] theorem State.takeListTick_du (s : State) : s.takeListTick.du = s.du := by simp [State.takeListTick]
@[simp] theorem State.takeListTick_line (s : State) : s.takeListTick.line = s.line := by simp [State.takeListTick]
@[simp] theorem State.takeListTick_alert (s : State) : s.takeListTick.alert = s.alert := by simp [State.takeListTick]
@[simp] theorem State.takeListTick_win (s : State) : s.takeListTick.win = s.win := by simp [State.takeListTick]
@[simp] theorem State.takeListTick_pending (s : State) :
    s.takeListTick.pending = s.pending := by simp [State.takeListTick]

@[simp] theorem State.setEntry_time (s : State) (e : EntryNo) (en : Entry) : (s.setEntry e en).time = s.time := rfl
@[simp] theorem State.setEntry_link (s : State) (e : EntryNo) (en : Entry) : (s.setEntry e en).link = s.link := rfl
@[simp] theorem State.setEntry_du (s : State) (e : EntryNo) (en : Entry) : (s.setEntry e en).du = s.du := rfl
@[simp] theorem State.setEntry_line (s : State) (e : EntryNo) (en : Entry) : (s.setEntry e en).line = s.line := rfl
@[simp] theorem State.setEntry_alert (s : State) (e : EntryNo) (en : Entry) : (s.setEntry e en).alert = s.alert := rfl
@[simp] theorem State.setEntry_win (s : State) (e : EntryNo) (en : Entry) : (s.setEntry e en).win = s.win := rfl
@[simp] theorem State.setEntry_pending (s : State) (e : EntryNo) (en : Entry) :
    (s.setEntry e en).pending = s.pending := rfl

@[simp] theorem State.insertDue_time (s : State) (e : EntryNo) (t : Word) : (s.insertDue e t).time = s.time := rfl
@[simp] theorem State.insertDue_link (s : State) (e : EntryNo) (t : Word) : (s.insertDue e t).link = s.link := rfl
@[simp] theorem State.insertDue_du (s : State) (e : EntryNo) (t : Word) : (s.insertDue e t).du = s.du := rfl
@[simp] theorem State.insertDue_line (s : State) (e : EntryNo) (t : Word) : (s.insertDue e t).line = s.line := rfl
@[simp] theorem State.insertDue_alert (s : State) (e : EntryNo) (t : Word) : (s.insertDue e t).alert = s.alert := rfl
@[simp] theorem State.insertDue_win (s : State) (e : EntryNo) (t : Word) : (s.insertDue e t).win = s.win := rfl
@[simp] theorem State.insertDue_pending (s : State) (e : EntryNo) (t : Word) :
    (s.insertDue e t).pending = s.pending := rfl

@[simp] theorem State.removeDue_time (s : State) (e : EntryNo) : (s.removeDue e).time = s.time := rfl
@[simp] theorem State.removeDue_link (s : State) (e : EntryNo) : (s.removeDue e).link = s.link := rfl
@[simp] theorem State.removeDue_du (s : State) (e : EntryNo) : (s.removeDue e).du = s.du := rfl
@[simp] theorem State.removeDue_line (s : State) (e : EntryNo) : (s.removeDue e).line = s.line := rfl
@[simp] theorem State.removeDue_alert (s : State) (e : EntryNo) : (s.removeDue e).alert = s.alert := rfl
@[simp] theorem State.removeDue_win (s : State) (e : EntryNo) : (s.removeDue e).win = s.win := rfl
@[simp] theorem State.removeDue_pending (s : State) (e : EntryNo) : (s.removeDue e).pending = s.pending := rfl

@[simp] theorem State.disarm_time (s : State) (e : EntryNo) :
    (s.disarm e).time = s.time := by unfold State.disarm; split <;> rfl
@[simp] theorem State.disarm_link (s : State) (e : EntryNo) :
    (s.disarm e).link = s.link := by unfold State.disarm; split <;> rfl
@[simp] theorem State.disarm_du (s : State) (e : EntryNo) :
    (s.disarm e).du = s.du := by unfold State.disarm; split <;> rfl
@[simp] theorem State.disarm_line (s : State) (e : EntryNo) :
    (s.disarm e).line = s.line := by unfold State.disarm; split <;> rfl
@[simp] theorem State.disarm_alert (s : State) (e : EntryNo) :
    (s.disarm e).alert = s.alert := by unfold State.disarm; split <;> rfl
@[simp] theorem State.disarm_win (s : State) (e : EntryNo) :
    (s.disarm e).win = s.win := by unfold State.disarm; split <;> rfl
@[simp] theorem State.disarm_pending (s : State) (e : EntryNo) :
    (s.disarm e).pending = s.pending := by unfold State.disarm; split <;> rfl

@[simp] theorem State.freshArm_time (s : State) (e : EntryNo) (t : Word) :
    (s.freshArm e t).time = s.time := by simp [State.freshArm]
@[simp] theorem State.freshArm_link (s : State) (e : EntryNo) (t : Word) :
    (s.freshArm e t).link = s.link := by simp [State.freshArm]
@[simp] theorem State.freshArm_du (s : State) (e : EntryNo) (t : Word) :
    (s.freshArm e t).du = s.du := by simp [State.freshArm]
@[simp] theorem State.freshArm_line (s : State) (e : EntryNo) (t : Word) :
    (s.freshArm e t).line = s.line := by simp [State.freshArm]
@[simp] theorem State.freshArm_alert (s : State) (e : EntryNo) (t : Word) :
    (s.freshArm e t).alert = s.alert := by simp [State.freshArm]
@[simp] theorem State.freshArm_win (s : State) (e : EntryNo) (t : Word) :
    (s.freshArm e t).win = s.win := by simp [State.freshArm]
@[simp] theorem State.freshArm_pending (s : State) (e : EntryNo) (t : Word) :
    (s.freshArm e t).pending = s.pending := by simp [State.freshArm]

@[simp] theorem State.policyArm_time (s : State) (e : EntryNo) (t : Word) :
    (s.policyArm e t).time = s.time := by unfold State.policyArm; split <;> simp
@[simp] theorem State.policyArm_link (s : State) (e : EntryNo) (t : Word) :
    (s.policyArm e t).link = s.link := by unfold State.policyArm; split <;> simp
@[simp] theorem State.policyArm_du (s : State) (e : EntryNo) (t : Word) :
    (s.policyArm e t).du = s.du := by unfold State.policyArm; split <;> simp
@[simp] theorem State.policyArm_line (s : State) (e : EntryNo) (t : Word) :
    (s.policyArm e t).line = s.line := by unfold State.policyArm; split <;> simp
@[simp] theorem State.policyArm_alert (s : State) (e : EntryNo) (t : Word) :
    (s.policyArm e t).alert = s.alert := by unfold State.policyArm; split <;> simp
@[simp] theorem State.policyArm_win (s : State) (e : EntryNo) (t : Word) :
    (s.policyArm e t).win = s.win := by unfold State.policyArm; split <;> simp
@[simp] theorem State.policyArm_pending (s : State) (e : EntryNo) (t : Word) :
    (s.policyArm e t).pending = s.pending := by unfold State.policyArm; split <;> simp

@[simp] theorem State.issue_time (s : State) (d : Definition) (e : EntryNo) (o : Half) (t : Word) :
    (s.issue d e o t).time = s.time := rfl
@[simp] theorem State.issue_lc (s : State) (d : Definition) (e : EntryNo) (o : Half) (t : Word) :
    (s.issue d e o t).lc = s.lc := rfl
@[simp] theorem State.issue_du (s : State) (d : Definition) (e : EntryNo) (o : Half) (t : Word) :
    (s.issue d e o t).du = s.du := rfl
@[simp] theorem State.issue_line (s : State) (d : Definition) (e : EntryNo) (o : Half) (t : Word) :
    (s.issue d e o t).line = s.line := rfl
@[simp] theorem State.issue_alert (s : State) (d : Definition) (e : EntryNo) (o : Half) (t : Word) :
    (s.issue d e o t).alert = s.alert := rfl
@[simp] theorem State.issue_win (s : State) (d : Definition) (e : EntryNo) (o : Half) (t : Word) :
    (s.issue d e o t).win = s.win := rfl
@[simp] theorem State.issue_pending (s : State) (d : Definition) (e : EntryNo) (o : Half) (t : Word) :
    (s.issue d e o t).pending = s.pending := rfl

@[simp] theorem State.continueSeries_time (s : State) (d : Definition) (e : EntryNo) (r : Half) (t : Word) : (s.continueSeries d e r t).time = s.time := by
  unfold State.continueSeries; dsimp only; split
  · simp
  · split <;> simp
@[simp] theorem State.continueSeries_link (s : State) (d : Definition) (e : EntryNo) (r : Half) (t : Word) : (s.continueSeries d e r t).link = s.link := by
  unfold State.continueSeries; dsimp only; split
  · simp
  · split <;> simp
@[simp] theorem State.continueSeries_du (s : State) (d : Definition) (e : EntryNo) (r : Half) (t : Word) : (s.continueSeries d e r t).du = s.du := by
  unfold State.continueSeries; dsimp only; split
  · simp
  · split <;> simp
@[simp] theorem State.continueSeries_line (s : State) (d : Definition) (e : EntryNo) (r : Half) (t : Word) : (s.continueSeries d e r t).line = s.line := by
  unfold State.continueSeries; dsimp only; split
  · simp
  · split <;> simp
@[simp] theorem State.continueSeries_alert (s : State) (d : Definition) (e : EntryNo) (r : Half) (t : Word) : (s.continueSeries d e r t).alert = s.alert := by
  unfold State.continueSeries; dsimp only; split
  · simp
  · split <;> simp
@[simp] theorem State.continueSeries_win (s : State) (d : Definition) (e : EntryNo) (r : Half) (t : Word) : (s.continueSeries d e r t).win = s.win := by
  unfold State.continueSeries; dsimp only; split
  · simp
  · split <;> simp
@[simp] theorem State.continueSeries_pending (s : State) (d : Definition) (e : EntryNo) (r : Half) (t : Word) : (s.continueSeries d e r t).pending = s.pending := by
  unfold State.continueSeries; dsimp only; split
  · simp
  · split <;> simp

@[simp] theorem State.expire_time (s : State) (e : EntryNo) : (s.expire e).time = s.time := by simp [State.expire]
@[simp] theorem State.expire_du (s : State) (e : EntryNo) : (s.expire e).du = s.du := by simp [State.expire]
@[simp] theorem State.expire_line (s : State) (e : EntryNo) : (s.expire e).line = s.line := by simp [State.expire]
@[simp] theorem State.expire_alert (s : State) (e : EntryNo) : (s.expire e).alert = s.alert := by simp [State.expire]
@[simp] theorem State.expire_win (s : State) (e : EntryNo) : (s.expire e).win = s.win := by simp [State.expire]
@[simp] theorem State.expire_pending (s : State) (e : EntryNo) :
    (s.expire e).pending = s.pending := by simp [State.expire]

@[simp] theorem State.runExpiry_time (s : State) (n : Word) :
    (s.runExpiry n).time = s.time := by unfold State.runExpiry; split <;> simp
@[simp] theorem State.runExpiry_du (s : State) (n : Word) :
    (s.runExpiry n).du = s.du := by unfold State.runExpiry; split <;> simp
@[simp] theorem State.runExpiry_line (s : State) (n : Word) :
    (s.runExpiry n).line = s.line := by unfold State.runExpiry; split <;> simp
@[simp] theorem State.runExpiry_alert (s : State) (n : Word) :
    (s.runExpiry n).alert = s.alert := by unfold State.runExpiry; split <;> simp
@[simp] theorem State.runExpiry_win (s : State) (n : Word) :
    (s.runExpiry n).win = s.win := by unfold State.runExpiry; split <;> simp
@[simp] theorem State.runExpiry_pending (s : State) (n : Word) :
    (s.runExpiry n).pending = s.pending := by unfold State.runExpiry; split <;> simp

@[simp] theorem State.startRun_time (s : State) :
    s.startRun.time = s.time := by simp [State.startRun]
@[simp] theorem State.startRun_du (s : State) :
    s.startRun.du = s.du := by simp [State.startRun]
@[simp] theorem State.startRun_line (s : State) :
    s.startRun.line = s.line := by simp [State.startRun]
@[simp] theorem State.startRun_alert (s : State) :
    s.startRun.alert = s.alert := by simp [State.startRun]
@[simp] theorem State.startRun_win (s : State) :
    s.startRun.win = s.win := by simp [State.startRun]
@[simp] theorem State.startRun_pending (s : State) :
    s.startRun.pending = s.pending := by simp [State.startRun]

@[simp] theorem State.settle_time (s : State) :
    s.settle.time = s.time := by unfold State.settle; split <;> rfl
@[simp] theorem State.settle_link (s : State) :
    s.settle.link = s.link := by unfold State.settle; split <;> rfl
@[simp] theorem State.settle_du (s : State) :
    s.settle.du = s.du := by unfold State.settle; split <;> rfl
@[simp] theorem State.settle_line (s : State) :
    s.settle.line = s.line := by unfold State.settle; split <;> rfl
@[simp] theorem State.settle_alert (s : State) :
    s.settle.alert = s.alert := by unfold State.settle; split <;> rfl
@[simp] theorem State.settle_win (s : State) :
    s.settle.win = s.win := by unfold State.settle; split <;> rfl
@[simp] theorem State.settle_pending (s : State) :
    s.settle.pending = s.pending := by unfold State.settle; split <;> rfl

@[simp] theorem State.setLatch_time (s : State) (n : InLine) (t : Option Word) : (s.setLatch n t).time = s.time := rfl
@[simp] theorem State.setLatch_link (s : State) (n : InLine) (t : Option Word) : (s.setLatch n t).link = s.link := rfl
@[simp] theorem State.setLatch_du (s : State) (n : InLine) (t : Option Word) : (s.setLatch n t).du = s.du := rfl
@[simp] theorem State.setLatch_line (s : State) (n : InLine) (t : Option Word) : (s.setLatch n t).line = s.line := rfl
@[simp] theorem State.setLatch_alert (s : State) (n : InLine) (t : Option Word) :
    (s.setLatch n t).alert = s.alert := rfl
@[simp] theorem State.setLatch_win (s : State) (n : InLine) (t : Option Word) : (s.setLatch n t).win = s.win := rfl
@[simp] theorem State.setLatch_pending (s : State) (n : InLine) (t : Option Word) :
    (s.setLatch n t).pending = s.pending := rfl

@[simp] theorem State.fillLatch_time (s : State) (n : InLine) (t : Word) :
    (s.fillLatch n t).time = s.time := by unfold State.fillLatch; split <;> rfl
@[simp] theorem State.fillLatch_link (s : State) (n : InLine) (t : Word) :
    (s.fillLatch n t).link = s.link := by unfold State.fillLatch; split <;> rfl
@[simp] theorem State.fillLatch_du (s : State) (n : InLine) (t : Word) :
    (s.fillLatch n t).du = s.du := by unfold State.fillLatch; split <;> rfl
@[simp] theorem State.fillLatch_line (s : State) (n : InLine) (t : Word) :
    (s.fillLatch n t).line = s.line := by unfold State.fillLatch; split <;> rfl
@[simp] theorem State.fillLatch_alert (s : State) (n : InLine) (t : Word) :
    (s.fillLatch n t).alert = s.alert := by unfold State.fillLatch; split <;> rfl
@[simp] theorem State.fillLatch_win (s : State) (n : InLine) (t : Word) :
    (s.fillLatch n t).win = s.win := by unfold State.fillLatch; split <;> rfl
@[simp] theorem State.fillLatch_pending (s : State) (n : InLine) (t : Word) :
    (s.fillLatch n t).pending = s.pending := by unfold State.fillLatch; split <;> rfl

@[simp] theorem State.triggerArm_time (s : State) (x : EntryNo) (t : Word) :
    (s.triggerArm x t).time = s.time := by unfold State.triggerArm; dsimp only; split <;> simp
@[simp] theorem State.triggerArm_link (s : State) (x : EntryNo) (t : Word) :
    (s.triggerArm x t).link = s.link := by unfold State.triggerArm; dsimp only; split <;> simp
@[simp] theorem State.triggerArm_du (s : State) (x : EntryNo) (t : Word) :
    (s.triggerArm x t).du = s.du := by unfold State.triggerArm; dsimp only; split <;> simp
@[simp] theorem State.triggerArm_line (s : State) (x : EntryNo) (t : Word) :
    (s.triggerArm x t).line = s.line := by unfold State.triggerArm; dsimp only; split <;> simp
@[simp] theorem State.triggerArm_alert (s : State) (x : EntryNo) (t : Word) :
    (s.triggerArm x t).alert = s.alert := by unfold State.triggerArm; dsimp only; split <;> simp
@[simp] theorem State.triggerArm_win (s : State) (x : EntryNo) (t : Word) :
    (s.triggerArm x t).win = s.win := by unfold State.triggerArm; dsimp only; split <;> simp
@[simp] theorem State.triggerArm_pending (s : State) (x : EntryNo) (t : Word) :
    (s.triggerArm x t).pending = s.pending := by unfold State.triggerArm; dsimp only; split <;> simp

@[simp] theorem State.serveLatch_time (s : State) (n : InLine) :
    (s.serveLatch n).time = s.time := by unfold State.serveLatch; dsimp only; split <;> simp
@[simp] theorem State.serveLatch_link (s : State) (n : InLine) :
    (s.serveLatch n).link = s.link := by unfold State.serveLatch; dsimp only; split <;> simp
@[simp] theorem State.serveLatch_du (s : State) (n : InLine) :
    (s.serveLatch n).du = s.du := by unfold State.serveLatch; dsimp only; split <;> simp
@[simp] theorem State.serveLatch_line (s : State) (n : InLine) :
    (s.serveLatch n).line = s.line := by unfold State.serveLatch; dsimp only; split <;> simp
@[simp] theorem State.serveLatch_alert (s : State) (n : InLine) :
    (s.serveLatch n).alert = s.alert := by unfold State.serveLatch; dsimp only; split <;> simp
@[simp] theorem State.serveLatch_win (s : State) (n : InLine) :
    (s.serveLatch n).win = s.win := by unfold State.serveLatch; dsimp only; split <;> simp
@[simp] theorem State.serveLatch_pending (s : State) (n : InLine) :
    (s.serveLatch n).pending = s.pending := by unfold State.serveLatch; dsimp only; split <;> simp

@[simp] theorem State.writeOperation_time (s : State) (c : Byte) :
    (s.writeOperation c).time = s.time := by unfold State.writeOperation; split <;> simp
@[simp] theorem State.writeOperation_link (s : State) (c : Byte) :
    (s.writeOperation c).link = s.link := by unfold State.writeOperation; split <;> simp
@[simp] theorem State.writeOperation_du (s : State) (c : Byte) :
    (s.writeOperation c).du = s.du := by unfold State.writeOperation; split <;> simp
@[simp] theorem State.writeOperation_line (s : State) (c : Byte) :
    (s.writeOperation c).line = s.line := by unfold State.writeOperation; split <;> simp
@[simp] theorem State.writeOperation_alert (s : State) (c : Byte) :
    (s.writeOperation c).alert = s.alert := by unfold State.writeOperation; split <;> simp
@[simp] theorem State.writeOperation_pending (s : State) (c : Byte) :
    (s.writeOperation c).pending = s.pending := by unfold State.writeOperation; split <;> simp

@[simp] theorem State.complete_time (s : State) (r : Result) : (s.complete r).time = s.time := rfl
@[simp] theorem State.complete_link (s : State) (r : Result) : (s.complete r).link = s.link := rfl
@[simp] theorem State.complete_du (s : State) (r : Result) : (s.complete r).du = s.du := rfl
@[simp] theorem State.complete_line (s : State) (r : Result) : (s.complete r).line = s.line := rfl
@[simp] theorem State.complete_win (s : State) (r : Result) : (s.complete r).win = s.win := rfl
@[simp] theorem State.complete_pending (s : State) (r : Result) : (s.complete r).pending = s.pending := rfl

@[simp] theorem State.completeRead_time (s : State) (i : Image) : (s.completeRead i).time = s.time := rfl
@[simp] theorem State.completeRead_link (s : State) (i : Image) : (s.completeRead i).link = s.link := rfl
@[simp] theorem State.completeRead_du (s : State) (i : Image) : (s.completeRead i).du = s.du := rfl
@[simp] theorem State.completeRead_line (s : State) (i : Image) : (s.completeRead i).line = s.line := rfl
@[simp] theorem State.completeRead_pending (s : State) (i : Image) : (s.completeRead i).pending = s.pending := rfl

@[simp] theorem State.afterQuery_time (s : State) (ph : OpPhase) :
    (s.afterQuery ph).time = s.time := by unfold State.afterQuery; split <;> simp
@[simp] theorem State.afterQuery_lc (s : State) (ph : OpPhase) :
    (s.afterQuery ph).lc = s.lc := by unfold State.afterQuery; split <;> simp
@[simp] theorem State.afterQuery_win (s : State) (ph : OpPhase) :
    (s.afterQuery ph).win = s.win := by unfold State.afterQuery; split <;> simp
@[simp] theorem State.afterQuery_pending (s : State) (ph : OpPhase) :
    (s.afterQuery ph).pending = s.pending := by unfold State.afterQuery; split <;> simp

@[simp] theorem State.armIf_time (s : State) (r : Result) (o : HostOp) (t : EntryNo → Word) :
    (s.armIf r o t).time = s.time := by unfold State.armIf; split <;> simp
@[simp] theorem State.armIf_link (s : State) (r : Result) (o : HostOp) (t : EntryNo → Word) :
    (s.armIf r o t).link = s.link := by unfold State.armIf; split <;> simp
@[simp] theorem State.armIf_du (s : State) (r : Result) (o : HostOp) (t : EntryNo → Word) :
    (s.armIf r o t).du = s.du := by unfold State.armIf; split <;> simp
@[simp] theorem State.armIf_line (s : State) (r : Result) (o : HostOp) (t : EntryNo → Word) :
    (s.armIf r o t).line = s.line := by unfold State.armIf; split <;> simp
@[simp] theorem State.armIf_alert (s : State) (r : Result) (o : HostOp) (t : EntryNo → Word) :
    (s.armIf r o t).alert = s.alert := by unfold State.armIf; split <;> simp
@[simp] theorem State.armIf_win (s : State) (r : Result) (o : HostOp) (t : EntryNo → Word) :
    (s.armIf r o t).win = s.win := by unfold State.armIf; split <;> simp
@[simp] theorem State.armIf_pending (s : State) (r : Result) (o : HostOp) (t : EntryNo → Word) :
    (s.armIf r o t).pending = s.pending := by unfold State.armIf; split <;> simp

@[simp] theorem State.clearWalk_time (s : State) (c : ClassNo) :
    (s.clearWalk c).time = s.time := foldl_frame _ (·.time) (fun _ _ => by simp) _ _
@[simp] theorem State.clearWalk_link (s : State) (c : ClassNo) :
    (s.clearWalk c).link = s.link := foldl_frame _ (·.link) (fun _ _ => by simp) _ _
@[simp] theorem State.clearWalk_du (s : State) (c : ClassNo) :
    (s.clearWalk c).du = s.du := foldl_frame _ (·.du) (fun _ _ => by simp) _ _
@[simp] theorem State.clearWalk_line (s : State) (c : ClassNo) :
    (s.clearWalk c).line = s.line := foldl_frame _ (·.line) (fun _ _ => by simp) _ _
@[simp] theorem State.clearWalk_alert (s : State) (c : ClassNo) :
    (s.clearWalk c).alert = s.alert := foldl_frame _ (·.alert) (fun _ _ => by simp) _ _
@[simp] theorem State.clearWalk_win (s : State) (c : ClassNo) :
    (s.clearWalk c).win = s.win := foldl_frame _ (·.win) (fun _ _ => by simp) _ _
@[simp] theorem State.clearWalk_pending (s : State) (c : ClassNo) :
    (s.clearWalk c).pending = s.pending := foldl_frame _ (·.pending) (fun _ _ => by simp) _ _

@[simp] theorem State.carryClear_time (s : State) (c : ClassNo) :
    (s.carryClear c).time = s.time := by simp [State.carryClear]
@[simp] theorem State.carryClear_win (s : State) (c : ClassNo) :
    (s.carryClear c).win = s.win := by simp [State.carryClear]
@[simp] theorem State.carryClear_pending (s : State) (c : ClassNo) :
    (s.carryClear c).pending = s.pending := by simp [State.carryClear]

@[simp] theorem State.carryCancel_time (s : State) (o : HostOp) (e : EntryNo) :
    (s.carryCancel o e).1.time = s.time := by simp [State.carryCancel, State.sendCancel]
@[simp] theorem State.carryCancel_win (s : State) (o : HostOp) (e : EntryNo) :
    (s.carryCancel o e).1.win = s.win := by simp [State.carryCancel, State.sendCancel]
@[simp] theorem State.carryCancel_pending (s : State) (o : HostOp) (e : EntryNo) :
    (s.carryCancel o e).1.pending = s.pending := by simp [State.carryCancel, State.sendCancel]

@[simp] theorem State.shiftWalk_time (s : State) (d : Word) :
    (s.shiftWalk d).time = s.time := foldl_frame _ (·.time) (fun _ _ => by simp) _ _
@[simp] theorem State.shiftWalk_link (s : State) (d : Word) :
    (s.shiftWalk d).link = s.link := foldl_frame _ (·.link) (fun _ _ => by simp) _ _
@[simp] theorem State.shiftWalk_du (s : State) (d : Word) :
    (s.shiftWalk d).du = s.du := foldl_frame _ (·.du) (fun _ _ => by simp) _ _
@[simp] theorem State.shiftWalk_line (s : State) (d : Word) :
    (s.shiftWalk d).line = s.line := foldl_frame _ (·.line) (fun _ _ => by simp) _ _
@[simp] theorem State.shiftWalk_alert (s : State) (d : Word) :
    (s.shiftWalk d).alert = s.alert := foldl_frame _ (·.alert) (fun _ _ => by simp) _ _
@[simp] theorem State.shiftWalk_win (s : State) (d : Word) :
    (s.shiftWalk d).win = s.win := foldl_frame _ (·.win) (fun _ _ => by simp) _ _
@[simp] theorem State.shiftWalk_pending (s : State) (d : Word) :
    (s.shiftWalk d).pending = s.pending := foldl_frame _ (·.pending) (fun _ _ => by simp) _ _

@[simp] theorem State.takeLineConfig_time (s : State) (n : InLine) (c : LineConfig) :
    (s.takeLineConfig n c).time = s.time := rfl
@[simp] theorem State.takeLineConfig_lc (s : State) (n : InLine) (c : LineConfig) :
    (s.takeLineConfig n c).lc = s.lc := rfl
@[simp] theorem State.takeLineConfig_link (s : State) (n : InLine) (c : LineConfig) :
    (s.takeLineConfig n c).link = s.link := rfl
@[simp] theorem State.takeLineConfig_du (s : State) (n : InLine) (c : LineConfig) :
    (s.takeLineConfig n c).du = s.du := rfl
@[simp] theorem State.takeLineConfig_alert (s : State) (n : InLine) (c : LineConfig) :
    (s.takeLineConfig n c).alert = s.alert := rfl
@[simp] theorem State.takeLineConfig_win (s : State) (n : InLine) (c : LineConfig) :
    (s.takeLineConfig n c).win = s.win := rfl
@[simp] theorem State.takeLineConfig_pending (s : State) (n : InLine) (c : LineConfig) :
    (s.takeLineConfig n c).pending = s.pending := rfl

@[simp] theorem State.sendLineConfig_time (s : State) (o : HostOp) :
    (s.sendLineConfig o).time = s.time := by unfold State.sendLineConfig; split <;> rfl
@[simp] theorem State.sendLineConfig_lc (s : State) (o : HostOp) :
    (s.sendLineConfig o).lc = s.lc := by unfold State.sendLineConfig; split <;> rfl
@[simp] theorem State.sendLineConfig_link (s : State) (o : HostOp) :
    (s.sendLineConfig o).link = s.link := by unfold State.sendLineConfig; split <;> rfl
@[simp] theorem State.sendLineConfig_du (s : State) (o : HostOp) :
    (s.sendLineConfig o).du = s.du := by unfold State.sendLineConfig; split <;> rfl
@[simp] theorem State.sendLineConfig_alert (s : State) (o : HostOp) :
    (s.sendLineConfig o).alert = s.alert := by unfold State.sendLineConfig; split <;> rfl
@[simp] theorem State.sendLineConfig_win (s : State) (o : HostOp) :
    (s.sendLineConfig o).win = s.win := by unfold State.sendLineConfig; split <;> rfl
@[simp] theorem State.sendLineConfig_pending (s : State) (o : HostOp) :
    (s.sendLineConfig o).pending = s.pending := by unfold State.sendLineConfig; split <;> rfl

/-! ## Input lines, resets, window -/

@[simp] theorem State.setIn_time (s : State) (n : InLine) (i : InputLine) : (s.setIn n i).time = s.time := rfl
@[simp] theorem State.setIn_lc (s : State) (n : InLine) (i : InputLine) : (s.setIn n i).lc = s.lc := rfl
@[simp] theorem State.setIn_link (s : State) (n : InLine) (i : InputLine) : (s.setIn n i).link = s.link := rfl
@[simp] theorem State.setIn_du (s : State) (n : InLine) (i : InputLine) : (s.setIn n i).du = s.du := rfl
@[simp] theorem State.setIn_alert (s : State) (n : InLine) (i : InputLine) : (s.setIn n i).alert = s.alert := rfl
@[simp] theorem State.setIn_win (s : State) (n : InLine) (i : InputLine) : (s.setIn n i).win = s.win := rfl
@[simp] theorem State.setIn_pending (s : State) (n : InLine) (i : InputLine) :
    (s.setIn n i).pending = s.pending := rfl

@[simp] theorem State.takeLineTick_time (s : State) : s.takeLineTick.time = s.time := rfl
@[simp] theorem State.takeLineTick_lc (s : State) : s.takeLineTick.lc = s.lc := rfl
@[simp] theorem State.takeLineTick_du (s : State) : s.takeLineTick.du = s.du := rfl
@[simp] theorem State.takeLineTick_alert (s : State) : s.takeLineTick.alert = s.alert := rfl
@[simp] theorem State.takeLineTick_win (s : State) : s.takeLineTick.win = s.win := rfl
@[simp] theorem State.takeLineTick_pending (s : State) : s.takeLineTick.pending = s.pending := rfl

@[simp] theorem State.capture_time (s : State) (r : CaptureRecord) :
    (s.capture r).time = s.time := by unfold State.capture; dsimp only; repeat (first | rfl | split)
@[simp] theorem State.capture_lc (s : State) (r : CaptureRecord) :
    (s.capture r).lc = s.lc := by unfold State.capture; dsimp only; repeat (first | rfl | split)
@[simp] theorem State.capture_link (s : State) (r : CaptureRecord) :
    (s.capture r).link = s.link := by unfold State.capture; dsimp only; repeat (first | rfl | split)
@[simp] theorem State.capture_du (s : State) (r : CaptureRecord) :
    (s.capture r).du = s.du := by unfold State.capture; dsimp only; repeat (first | rfl | split)
@[simp] theorem State.capture_win (s : State) (r : CaptureRecord) :
    (s.capture r).win = s.win := by unfold State.capture; dsimp only; repeat (first | rfl | split)
@[simp] theorem State.capture_pending (s : State) (r : CaptureRecord) :
    (s.capture r).pending = s.pending := by unfold State.capture; dsimp only; repeat (first | rfl | split)

@[simp] theorem State.recognize_time (s : State) (n : InLine) (b : Bool) :
    (s.recognize n b).time = s.time := by unfold State.recognize; dsimp only; split <;> split <;> simp
@[simp] theorem State.recognize_link (s : State) (n : InLine) (b : Bool) :
    (s.recognize n b).link = s.link := by unfold State.recognize; dsimp only; split <;> split <;> simp
@[simp] theorem State.recognize_du (s : State) (n : InLine) (b : Bool) :
    (s.recognize n b).du = s.du := by unfold State.recognize; dsimp only; split <;> split <;> simp
@[simp] theorem State.recognize_win (s : State) (n : InLine) (b : Bool) :
    (s.recognize n b).win = s.win := by unfold State.recognize; dsimp only; split <;> split <;> simp
@[simp] theorem State.recognize_pending (s : State) (n : InLine) (b : Bool) :
    (s.recognize n b).pending = s.pending := by unfold State.recognize; dsimp only; split <;> split <;> simp

@[simp] theorem State.takeChange_time (s : State) (n : InLine) (b : Bool) : (s.takeChange n b).time = s.time := by
  unfold State.takeChange; dsimp only; split
  · rfl
  · split <;> simp
@[simp] theorem State.takeChange_link (s : State) (n : InLine) (b : Bool) : (s.takeChange n b).link = s.link := by
  unfold State.takeChange; dsimp only; split
  · rfl
  · split <;> simp
@[simp] theorem State.takeChange_du (s : State) (n : InLine) (b : Bool) : (s.takeChange n b).du = s.du := by
  unfold State.takeChange; dsimp only; split
  · rfl
  · split <;> simp
@[simp] theorem State.takeChange_win (s : State) (n : InLine) (b : Bool) : (s.takeChange n b).win = s.win := by
  unfold State.takeChange; dsimp only; split
  · rfl
  · split <;> simp
@[simp] theorem State.takeChange_pending (s : State) (n : InLine) (b : Bool) : (s.takeChange n b).pending = s.pending := by
  unfold State.takeChange; dsimp only; split
  · rfl
  · split <;> simp

@[simp] theorem State.setPin_time (s : State) (n : InLine) (b : Bool) : (s.setPin n b).time = s.time := rfl
@[simp] theorem State.setPin_lc (s : State) (n : InLine) (b : Bool) : (s.setPin n b).lc = s.lc := rfl
@[simp] theorem State.setPin_link (s : State) (n : InLine) (b : Bool) : (s.setPin n b).link = s.link := rfl
@[simp] theorem State.setPin_du (s : State) (n : InLine) (b : Bool) : (s.setPin n b).du = s.du := rfl
@[simp] theorem State.setPin_alert (s : State) (n : InLine) (b : Bool) : (s.setPin n b).alert = s.alert := rfl
@[simp] theorem State.setPin_win (s : State) (n : InLine) (b : Bool) : (s.setPin n b).win = s.win := rfl
@[simp] theorem State.setPin_pending (s : State) (n : InLine) (b : Bool) : (s.setPin n b).pending = s.pending := rfl

@[simp] theorem State.negateReset_time (s : State) : s.negateReset.time = s.time := rfl
@[simp] theorem State.negateReset_lc (s : State) : s.negateReset.lc = s.lc := rfl
@[simp] theorem State.negateReset_link (s : State) : s.negateReset.link = s.link := rfl
@[simp] theorem State.negateReset_du (s : State) : s.negateReset.du = s.du := rfl
@[simp] theorem State.negateReset_alert (s : State) : s.negateReset.alert = s.alert := rfl
@[simp] theorem State.negateReset_pending (s : State) : s.negateReset.pending = s.pending := rfl

@[simp] theorem State.popCapture_time (s : State) : s.popCapture.time = s.time := rfl
@[simp] theorem State.popCapture_lc (s : State) : s.popCapture.lc = s.lc := rfl
@[simp] theorem State.popCapture_link (s : State) : s.popCapture.link = s.link := rfl
@[simp] theorem State.popCapture_du (s : State) : s.popCapture.du = s.du := rfl
@[simp] theorem State.popCapture_alert (s : State) : s.popCapture.alert = s.alert := rfl
@[simp] theorem State.popCapture_win (s : State) : s.popCapture.win = s.win := rfl
@[simp] theorem State.popCapture_pending (s : State) : s.popCapture.pending = s.pending := rfl

@[simp] theorem State.popMiss_time (s : State) : s.popMiss.time = s.time := rfl
@[simp] theorem State.popMiss_lc (s : State) : s.popMiss.lc = s.lc := rfl
@[simp] theorem State.popMiss_link (s : State) : s.popMiss.link = s.link := rfl
@[simp] theorem State.popMiss_du (s : State) : s.popMiss.du = s.du := rfl
@[simp] theorem State.popMiss_line (s : State) : s.popMiss.line = s.line := rfl
@[simp] theorem State.popMiss_win (s : State) : s.popMiss.win = s.win := rfl
@[simp] theorem State.popMiss_pending (s : State) : s.popMiss.pending = s.pending := rfl

@[simp] theorem State.alertClear_time (s : State) (b : Byte) : (s.alertClear b).time = s.time := by simp [State.alertClear]
@[simp] theorem State.alertClear_lc (s : State) (b : Byte) : (s.alertClear b).lc = s.lc := by simp [State.alertClear]
@[simp] theorem State.alertClear_link (s : State) (b : Byte) : (s.alertClear b).link = s.link := by simp [State.alertClear]
@[simp] theorem State.alertClear_win (s : State) (b : Byte) : (s.alertClear b).win = s.win := by simp [State.alertClear]
@[simp] theorem State.alertClear_pending (s : State) (b : Byte) : (s.alertClear b).pending = s.pending := by simp [State.alertClear]

@[simp] theorem State.alertEnable_time (s : State) (b : Byte) : (s.alertEnable b).time = s.time := rfl
@[simp] theorem State.alertEnable_lc (s : State) (b : Byte) : (s.alertEnable b).lc = s.lc := rfl
@[simp] theorem State.alertEnable_link (s : State) (b : Byte) : (s.alertEnable b).link = s.link := rfl
@[simp] theorem State.alertEnable_du (s : State) (b : Byte) : (s.alertEnable b).du = s.du := rfl
@[simp] theorem State.alertEnable_line (s : State) (b : Byte) : (s.alertEnable b).line = s.line := rfl
@[simp] theorem State.alertEnable_win (s : State) (b : Byte) : (s.alertEnable b).win = s.win := rfl
@[simp] theorem State.alertEnable_pending (s : State) (b : Byte) : (s.alertEnable b).pending = s.pending := rfl

@[simp] theorem State.clearAll_time (s : State) : s.clearAll.time = s.time := by simp [State.clearAll]
@[simp] theorem State.clearAll_pending (s : State) : s.clearAll.pending = s.pending := by simp [State.clearAll]

@[simp] theorem State.hardwareReset_pending (s : State) : s.hardwareReset.pending = s.pending := rfl

@[simp] theorem State.control_time (s : State) (b : Byte) : (s.control b).time = s.time := by
  unfold State.control; dsimp only; split <;> split <;> split <;> split <;> simp
@[simp] theorem State.control_pending (s : State) (b : Byte) : (s.control b).pending = s.pending := by
  unfold State.control; dsimp only; split <;> split <;> split <;> split <;> simp

@[simp] theorem State.writeEntrySelect_time (s : State) (b : Byte) : (s.writeEntrySelect b).time = s.time := rfl
@[simp] theorem State.writeEntrySelect_lc (s : State) (b : Byte) : (s.writeEntrySelect b).lc = s.lc := rfl
@[simp] theorem State.writeEntrySelect_link (s : State) (b : Byte) : (s.writeEntrySelect b).link = s.link := rfl
@[simp] theorem State.writeEntrySelect_du (s : State) (b : Byte) : (s.writeEntrySelect b).du = s.du := rfl
@[simp] theorem State.writeEntrySelect_line (s : State) (b : Byte) : (s.writeEntrySelect b).line = s.line := rfl
@[simp] theorem State.writeEntrySelect_alert (s : State) (b : Byte) : (s.writeEntrySelect b).alert = s.alert := rfl
@[simp] theorem State.writeEntrySelect_pending (s : State) (b : Byte) :
    (s.writeEntrySelect b).pending = s.pending := rfl

@[simp] theorem State.writeViewSelect_time (s : State) (b : Byte) : (s.writeViewSelect b).time = s.time := rfl
@[simp] theorem State.writeViewSelect_lc (s : State) (b : Byte) : (s.writeViewSelect b).lc = s.lc := rfl
@[simp] theorem State.writeViewSelect_link (s : State) (b : Byte) : (s.writeViewSelect b).link = s.link := rfl
@[simp] theorem State.writeViewSelect_du (s : State) (b : Byte) : (s.writeViewSelect b).du = s.du := rfl
@[simp] theorem State.writeViewSelect_line (s : State) (b : Byte) : (s.writeViewSelect b).line = s.line := rfl
@[simp] theorem State.writeViewSelect_alert (s : State) (b : Byte) : (s.writeViewSelect b).alert = s.alert := rfl
@[simp] theorem State.writeViewSelect_pending (s : State) (b : Byte) :
    (s.writeViewSelect b).pending = s.pending := rfl

@[simp] theorem State.writeStagePtr_time (s : State) (b : Byte) : (s.writeStagePtr b).time = s.time := rfl
@[simp] theorem State.writeStagePtr_lc (s : State) (b : Byte) : (s.writeStagePtr b).lc = s.lc := rfl
@[simp] theorem State.writeStagePtr_link (s : State) (b : Byte) : (s.writeStagePtr b).link = s.link := rfl
@[simp] theorem State.writeStagePtr_du (s : State) (b : Byte) : (s.writeStagePtr b).du = s.du := rfl
@[simp] theorem State.writeStagePtr_line (s : State) (b : Byte) : (s.writeStagePtr b).line = s.line := rfl
@[simp] theorem State.writeStagePtr_alert (s : State) (b : Byte) : (s.writeStagePtr b).alert = s.alert := rfl
@[simp] theorem State.writeStagePtr_pending (s : State) (b : Byte) : (s.writeStagePtr b).pending = s.pending := rfl

@[simp] theorem State.writeStage_time (s : State) (b : Byte) : (s.writeStage b).time = s.time := rfl
@[simp] theorem State.writeStage_lc (s : State) (b : Byte) : (s.writeStage b).lc = s.lc := rfl
@[simp] theorem State.writeStage_link (s : State) (b : Byte) : (s.writeStage b).link = s.link := rfl
@[simp] theorem State.writeStage_du (s : State) (b : Byte) : (s.writeStage b).du = s.du := rfl
@[simp] theorem State.writeStage_line (s : State) (b : Byte) : (s.writeStage b).line = s.line := rfl
@[simp] theorem State.writeStage_alert (s : State) (b : Byte) : (s.writeStage b).alert = s.alert := rfl
@[simp] theorem State.writeStage_pending (s : State) (b : Byte) : (s.writeStage b).pending = s.pending := rfl

@[simp] theorem State.readStage_time (s : State) : s.readStage.time = s.time := rfl
@[simp] theorem State.readStage_lc (s : State) : s.readStage.lc = s.lc := rfl
@[simp] theorem State.readStage_link (s : State) : s.readStage.link = s.link := rfl
@[simp] theorem State.readStage_du (s : State) : s.readStage.du = s.du := rfl
@[simp] theorem State.readStage_line (s : State) : s.readStage.line = s.line := rfl
@[simp] theorem State.readStage_alert (s : State) : s.readStage.alert = s.alert := rfl
@[simp] theorem State.readStage_pending (s : State) : s.readStage.pending = s.pending := rfl

@[simp] theorem State.readView_time (s : State) : s.readView.time = s.time := by simp [State.readView]
@[simp] theorem State.readView_lc (s : State) : s.readView.lc = s.lc := by simp [State.readView]
@[simp] theorem State.readView_link (s : State) : s.readView.link = s.link := by simp [State.readView]
@[simp] theorem State.readView_pending (s : State) : s.readView.pending = s.pending := by simp [State.readView]

end Sys2Proof.Machine
end

