-- ==== Sys2Proof/Laws/Operations.lean ====
section
/-! SUPPORT. What the shared operations can do, said once: the guard of RESET*, the operation in progress, the operands of
an operation, the entry table, the presence answer, the arbiter and the queues of requests. -/

namespace Sys2Proof.Machine

/-! ## The guard of RESET* and the operation in progress -/

/-- With RESET* negated a command has its effect. -/
theorem live_eq {s : State} (h : s.Live) (f : State → State) : live s f = .next (f s) := by
  simp only [live, State.Live] at *
  simp [h]

/-- With RESET* asserted a command has none. -/
theorem live_held {s : State} (h : s.win.resetAsserted = true) (f : State → State) : live s f = .next s := by
  simp [live, h]

/-- The step of an operation that is in progress. -/
theorem onOperation_carries {s : State} {n : OpName} {op : HostOp} {ph : OpPhase} (h : s.Carries n op ph)
    (f : HostOp → OpPhase → State) : s.onOperation n f = f op ph := by
  obtain ⟨h1, h2, h3⟩ := h
  simp [State.onOperation, State.inProgress, h1, h2, h3]

/-- The step of an operation that is not in progress. -/
theorem onOperation_other {s : State} {n : OpName} (h : ∀ op ph, ¬ s.Carries n op ph)
    (f : HostOp → OpPhase → State) : s.onOperation n f = s := by
  simp only [State.onOperation, State.inProgress]
  split
  · rename_i heq
    split at heq
    · rename_i op' ph' h1 h2
      split at heq
      · exact absurd ⟨h1, ‹_›, h2⟩ (h op' ph')
      · cases heq
    · cases heq
  · rfl

/-- `onOperation` answers the state itself or the step of the operation in progress. -/
theorem onOperation_cases (s : State) (n : OpName) (f : HostOp → OpPhase → State) :
    s.onOperation n f = s ∨ ∃ op ph, s.Carries n op ph ∧ s.onOperation n f = f op ph := by
  by_cases h : ∃ op ph, s.Carries n op ph
  · obtain ⟨op, ph, hc⟩ := h
    exact .inr ⟨op, ph, hc, onOperation_carries hc f⟩
  · exact .inl (onOperation_other (fun op ph hc => h ⟨op, ph, hc⟩) f)

/-! ## Operands -/

/-- An entry select of 64 to 255 names no entry. -/
theorem HostOp.entry?_none {op : HostOp} (h : op.NamesNone) : op.entry? = none := by
  simp only [HostOp.entry?, entryOf, HostOp.NamesNone] at *
  rw [dif_neg (by omega)]

/-- An entry select of 0 to 63 names that entry. -/
theorem HostOp.entry?_some {op : HostOp} {e : EntryNo} (h : op.Names e) : op.entry? = some e := by
  simp only [HostOp.entry?, entryOf, HostOp.Names] at *
  rw [dif_pos (by omega)]
  congr

/-- A staging byte 0 of 8 to 255 names no class. -/
theorem HostOp.class?_none {op : HostOp} (h : 8 ≤ op.image[0].toNat) : op.class? = none := by
  simp only [HostOp.class?, classOf]
  rw [dif_neg (by omega)]

/-- A staging byte 0 of 0 to 7 names that class. -/
theorem HostOp.class?_some {op : HostOp} {c : ClassNo} (h : op.image[0].toNat = c.val) : op.class? = some c := by
  simp only [HostOp.class?, classOf]
  rw [dif_pos (by omega)]
  congr

/-- The code of an operation names it. -/
theorem OpName.ofCode_code (n : OpName) : OpName.ofCode n.code = some n := by cases n <;> decide

/-! ## Rows of like items -/

@[simp] theorem getElem_mapAll {α β : Type} {n : Nat} (f : α → β) (v : Vector α n) (i : Nat) (h : i < n) :
    (mapAll f v)[i] = f v[i] := by simp [mapAll]

theorem mapAll_eq_map {α β : Type} {n : Nat} (f : α → β) (v : Vector α n) : mapAll f v = v.map f := by
  ext i h
  simp

/-! ## The entry table -/

/-- The record just written is read back. -/
@[simp] theorem State.entry_setEntry_self (s : State) (e : EntryNo) (en : Entry) : (s.setEntry e en).entry e = en := by
  simp [State.entry, State.setEntry]

/-- The write of one record leaves every other. -/
theorem State.entry_setEntry_other (s : State) {e f : EntryNo} (h : f ≠ e) (en : Entry) :
    (s.setEntry e en).entry f = s.entry f := by
  have : e.val ≠ f.val := fun hv => h (Fin.ext hv.symm)
  simp [State.entry, State.setEntry, this]

/-- Both at once. -/
theorem State.entry_setEntry (s : State) (e f : EntryNo) (en : Entry) :
    (s.setEntry e en).entry f = if f = e then en else s.entry f := by
  split
  · subst_vars
    simp
  · exact s.entry_setEntry_other ‹_› en

@[simp] theorem State.setEntry_dueList (s : State) (e : EntryNo) (en : Entry) :
    (s.setEntry e en).lc.dueList = s.lc.dueList := rfl
@[simp] theorem State.setEntry_latches (s : State) (e : EntryNo) (en : Entry) :
    (s.setEntry e en).lc.latches = s.lc.latches := rfl
@[simp] theorem State.setEntry_owed (s : State) (e : EntryNo) (en : Entry) : (s.setEntry e en).lc.owed = s.lc.owed := rfl
@[simp] theorem State.setEntry_slot (s : State) (e : EntryNo) (en : Entry) : (s.setEntry e en).lc.slot = s.lc.slot := rfl
@[simp] theorem State.setEntry_work (s : State) (e : EntryNo) (en : Entry) : (s.setEntry e en).lc.work = s.lc.work := rfl
@[simp] theorem State.setEntry_opResult (s : State) (e : EntryNo) (en : Entry) :
    (s.setEntry e en).lc.opResult = s.lc.opResult := rfl

/-- An insertion writes one record, and the due list gains its entry. -/
theorem State.entry_insertDue (s : State) (e f : EntryNo) (t : Word) :
    (s.insertDue e t).entry f =
      if f = e then { s.entry e with timing := .armed, due := some t } else s.entry f :=
  s.entry_setEntry e f _

/-- A removal writes one record, and the due list loses its entry. -/
theorem State.entry_removeDue (s : State) (e f : EntryNo) :
    (s.removeDue e).entry f =
      if f = e then { s.entry e with timing := .idle, due := none, remaining := 0 } else s.entry f :=
  s.entry_setEntry e f _

@[simp] theorem State.removeDue_dueList (s : State) (e : EntryNo) :
    (s.removeDue e).lc.dueList = s.lc.dueList.erase e := rfl

/-- A removal as one change of the table and the list. -/
theorem State.removeDue_eq (s : State) (e : EntryNo) :
    s.removeDue e = s.withList
      (s.lc.entries.set e { s.entry e with timing := .idle, due := none, remaining := 0 }) (s.lc.dueList.erase e) := rfl

/-! ## The due list -/

/-- An insertion puts one member in and keeps the others. -/
theorem insertBy_perm (dist : EntryNo → Int) (e : EntryNo) : ∀ l : List EntryNo, (insertBy dist e l).Perm (e :: l)
  | [] => .refl _
  | m :: ms => by
    simp only [insertBy]
    split
    · exact ((insertBy_perm dist e ms).cons m).trans (.swap e m ms)
    · exact .refl _

@[simp] theorem mem_insertBy (dist : EntryNo → Int) (e x : EntryNo) (l : List EntryNo) :
    x ∈ insertBy dist e l ↔ x = e ∨ x ∈ l := by
  simpa using (insertBy_perm dist e l).mem_iff

theorem nodup_insertBy (dist : EntryNo → Int) (e : EntryNo) (l : List EntryNo) :
    (insertBy dist e l).Nodup ↔ e ∉ l ∧ l.Nodup := by
  simpa using (insertBy_perm dist e l).nodup_iff

/-! ## Holder sets -/

@[simp] theorem mem_insertHolder (e x : EntryNo) : ∀ l : List EntryNo, x ∈ insertHolder e l ↔ x = e ∨ x ∈ l
  | [] => by simp [insertHolder]
  | y :: ys => by
    simp only [insertHolder]
    split
    · simp
    · split
      · simp_all
      · simp [mem_insertHolder e x ys, or_left_comm]

/-- A holder set in its canonical form stays so when an entry joins. -/
theorem insertHolder_sorted (e : EntryNo) : ∀ l : List EntryNo, l.Pairwise (· < ·) → (insertHolder e l).Pairwise (· < ·)
  | [], _ => by simp [insertHolder]
  | y :: ys, h => by
    obtain ⟨hy, hys⟩ := List.pairwise_cons.1 h
    simp only [insertHolder]
    split
    · rename_i hlt
      exact List.pairwise_cons.2 ⟨fun x hx => (List.mem_cons.1 hx).elim (· ▸ hlt) fun hx => hlt.trans (hy x hx), h⟩
    · split
      · exact h
      · rename_i h1 h2
        refine List.pairwise_cons.2 ⟨fun x hx => ?_, insertHolder_sorted e ys hys⟩
        rcases (mem_insertHolder e x ys).1 hx with rfl | hx
        · exact lt_of_le_of_ne (not_lt.1 h1) (Ne.symm h2)
        · exact hy x hx

/-- An entry leaves a holder set. -/
@[simp] theorem mem_unhold (o : OutputLine) (e x : EntryNo) : x ∈ (o.unhold e).holders ↔ x ∈ o.holders ∧ x ≠ e := by
  simp [OutputLine.unhold]

/-! ## Presence answers -/

/-- The state that an operation goes on in after its presence query. -/
theorem State.Queried.after {s q : State} {ph : OpPhase} {e : EntryNo} {p : Presence} (h : s.Queried ph e q p) :
    s.afterQuery ph = q := by
  rcases h with ⟨rfl, rfl⟩ | ⟨rfl, rfl, _⟩ <;> rfl

/-- The answer that an operation works from. -/
theorem State.Queried.answer {s q : State} {ph : OpPhase} {e : EntryNo} {p : Presence} (h : s.Queried ph e q p) :
    q.answer ph e = p := by
  rcases h with ⟨rfl, rfl⟩ | ⟨rfl, rfl, rfl⟩ <;> rfl

/-- A presence query leaves the entry table. -/
theorem State.Queried.entry {s q : State} {ph : OpPhase} {e : EntryNo} {p : Presence} (h : s.Queried ph e q p)
    (f : EntryNo) : q.entry f = s.entry f := by
  rcases h with ⟨_, rfl⟩ | ⟨_, rfl, _⟩ <;> simp [State.entry]

/-! ## The arbiter -/

/-- At the end of a piece of work the arbiter chooses a run that is owed, a full latch, the operation in the slot, or
rest. -/
theorem ListController.choose_cases (c : ListController) :
    (c.owed = true ∧ c.choose = .run none) ∨
    (c.owed = false ∧ ∃ n, (c.latches[n]).isSome ∧ c.choose = .latch n) ∨
    (c.owed = false ∧ c.fullLatch = none ∧ c.slot.isSome ∧ c.choose = .operation .started) ∨
    (c.owed = false ∧ c.fullLatch = none ∧ c.slot = none ∧ c.choose = .rest) := by
  simp only [ListController.choose]
  cases ho : c.owed
  · right
    cases hl : c.fullLatch with
    | some n =>
      left
      exact ⟨rfl, n, by simpa using List.find?_some hl, by simp⟩
    | none =>
      right
      cases hs : c.slot <;> simp
  · left
    simp

/-- No latch is full when the arbiter finds none. -/
theorem ListController.fullLatch_none {c : ListController} (h : c.fullLatch = none) (n : InLine) : c.latches[n] = none := by
  have hn : n ∈ allInLines := by revert n; decide
  simpa using List.find?_eq_none.1 h n hn

/-! ## Queues of requests -/

/-- What stands before and behind the first PULSE of a queue of action requests. -/
theorem splitPulse_append : ∀ as : List ActionReq, (splitPulse as).1 ++ (splitPulse as).2 = as
  | [] => rfl
  | .pulse l e :: as => rfl
  | .set l :: as => by simp [splitPulse, splitPulse_append as]
  | .clear l :: as => by simp [splitPulse, splitPulse_append as]
  | .toggle l :: as => by simp [splitPulse, splitPulse_append as]

/-- What stands before and behind the first post request of a queue that names a pulse line. -/
theorem splitPost_append : ∀ ps : List PostReq, (splitPost ps).1 ++ (splitPost ps).2 = ps
  | [] => rfl
  | p :: ps => by
    simp only [splitPost]
    split
    · rfl
    · simp [splitPost_append ps]

/-! ## Dispatch unit: what each operation can leave -/

/-- A post request makes or raises one waiting record. -/
theorem State.postCase_cases (s : State) (p : PostReq) :
    (s.hasEvent p.entry = true ∧
      s.postCase p = { s with du := { s.du with pool := mergeInto p.entry s.du.pool } }) ∨
    (s.hasEvent p.entry = false ∧ s.hasHeld p.entry = true ∧
      s.postCase p = { s with du := { s.du with held := mergeInto p.entry s.du.held } }) ∨
    (s.hasEvent p.entry = false ∧ s.hasHeld p.entry = false ∧ s.du.pool.length < Config.poolSlots ∧
      s.postCase p = { s with du := { s.du with pool := s.du.pool ++ [p.record] } }) ∨
    (s.hasEvent p.entry = false ∧ s.hasHeld p.entry = false ∧ ¬ s.du.pool.length < Config.poolSlots ∧
      s.postCase p = ({ s with du := { s.du with held := s.du.held ++ [p.record] } } : State).setCause .held) := by
  simp only [State.postCase]
  split
  · simp_all
  · split
    · simp_all
    · split <;> simp_all

/-- A freed slot goes to the head of the held queue, or stays free. -/
theorem State.refill_cases (s : State) :
    (s.refill = s ∧ (s.du.held = [] ∨ Config.poolSlots ≤ s.du.pool.length)) ∨
    (∃ h hs, s.du.held = h :: hs ∧ s.du.pool.length < Config.poolSlots ∧
      s.refill = { s with du := { s.du with pool := s.du.pool ++ [h], held := hs } }) := by
  simp only [State.refill]
  cases hh : s.du.held with
  | nil => simp
  | cons h hs =>
    by_cases hl : s.du.pool.length < Config.poolSlots
    · simp [hl]
    · left
      exact ⟨by simp [hl], .inr (not_lt.1 hl)⟩

/-- A miss record joins the log, or is lost. -/
theorem State.logMiss_cases (s : State) (m : MissRecord) :
    (s.alert.missLog.length < Config.missLogSize ∧
      s.logMiss m = { s with alert := { s.alert with missLog := s.alert.missLog ++ [m] } }) ∨
    (¬ s.alert.missLog.length < Config.missLogSize ∧ s.logMiss m = s.setCause .missLost) := by
  simp only [State.logMiss]
  split <;> simp_all

/-- A record that has left sends a release when it names a line and no other record of its entry remains. -/
theorem State.releaseAfter_cases (s : State) (e : EntryNo) (line : Option OutLine) :
    ((line = none ∨ s.hasRecord e = true) ∧ s.releaseAfter e line = s) ∨
    (∃ l, line = some l ∧ s.hasRecord e = false ∧ s.releaseAfter e line = s.releaseHolder l e) := by
  simp only [State.releaseAfter]
  cases line with
  | none => simp
  | some l => cases h : s.hasRecord e <;> simp

/-- A merge keeps the entries of the records, and so their number. -/
@[simp] theorem mergeInto_entries (e : EntryNo) (rs : List Record) :
    (mergeInto e rs).map Record.entry = rs.map Record.entry := by
  simp only [mergeInto, List.map_map]
  congr 1
  funext r
  simp only [Function.comp]
  split <;> rfl

@[simp] theorem mergeInto_length (e : EntryNo) (rs : List Record) : (mergeInto e rs).length = rs.length := by
  simp [mergeInto]

/-- What no withdrawal touches in the dispatch unit. -/
def DispatchUnit.rest (u : DispatchUnit) : List ServiceRecord × Byte × Bool × Vector Half 8 × Bool × Bool :=
  (u.stack, u.classMask, u.enable, u.limits, u.staleOwed, u.overrunOwed)

@[simp] theorem State.withdrawHeld_rest (reason : MissReason) (s : State) (r : Record) :
    (s.withdrawHeld reason r).du.rest = s.du.rest := by
  simp [State.withdrawHeld, DispatchUnit.rest]

@[simp] theorem State.refill_rest (s : State) : s.refill.du.rest = s.du.rest := by
  rcases s.refill_cases with ⟨h, _⟩ | ⟨_, _, _, _, h⟩
  · rw [h]
  · rw [h]
    rfl

@[simp] theorem State.withdrawEvent_rest (reason : MissReason) (s : State) (r : Record) :
    (s.withdrawEvent reason r).du.rest = s.du.rest := by
  rw [State.withdrawEvent, State.refill_rest]
  simp [DispatchUnit.rest]

/-- The stale withdrawals touch the pool and the held queue alone. -/
@[simp] theorem State.withdrawStale_rest (s : State) : s.withdrawStale.du.rest = s.du.rest := by
  have h1 : s.withdrawStaleHeld.du.rest = s.du.rest := by
    unfold State.withdrawStaleHeld
    exact foldl_frame (State.withdrawHeld .stale) (fun t : State => t.du.rest)
      (fun t r => t.withdrawHeld_rest .stale r) _ _
  have h2 : ∀ (t : State) c, (t.withdrawStaleClass c).du.rest = t.du.rest := fun t c => by
    unfold State.withdrawStaleClass
    exact foldl_frame (State.withdrawEvent .stale) (fun t : State => t.du.rest)
      (fun t r => t.withdrawEvent_rest .stale r) _ _
  have h3 := foldl_frame State.withdrawStaleClass (fun t : State => t.du.rest) h2 allClasses s.withdrawStaleHeld
  unfold State.withdrawStale
  generalize List.foldl State.withdrawStaleClass s.withdrawStaleHeld allClasses = t at h3
  have h4 : t.du.rest = s.du.rest := h3.trans h1
  simp only
  split
  · exact h4
  · exact h4

/-- When what is left of a tick has been taken, nothing is left of it. -/
theorem State.finishTick_marks (s : State) : s.finishTick.du.staleOwed = false ∧ s.finishTick.du.overrunOwed = false := by
  have h : s.finishStale.du.staleOwed = false := by
    simp only [State.finishStale]
    split
    · have h := State.withdrawStale_rest { s with du := { s.du with staleOwed := false } }
      simp only [DispatchUnit.rest, Prod.mk.injEq] at h
      exact h.2.2.2.2.1
    · simp_all
  simp only [State.finishTick, State.finishOverrun]
  split
  · constructor
    · simp only [State.checkService]
      split <;> exact h
    · simp only [State.checkService]
      split <;> rfl
  · simp_all

/-- With no mark standing there is nothing left of a tick. -/
theorem State.finishTick_none {s : State} (h1 : s.du.staleOwed = false) (h2 : s.du.overrunOwed = false) :
    s.finishTick = s := by
  simp [State.finishTick, State.finishStale, State.finishOverrun, h1, h2]

/-! ## What is left of a tick -/

/-- The dispatch unit and the miss log replaced, causes set, and members taken out of holder sets. -/
def State.withdrawTo (s : State) (d : DispatchUnit) (log : List MissRecord) (m : Byte) (gone : Nat → EntryNo → Bool) :
    State :=
  { s with
    du := d
    alert := { s.alert with missLog := log, causes := s.alert.causes ||| m }
    line := { s.line with outs := s.line.outs.mapFinIdx fun i o _ =>
      { o with holders := o.holders.filter fun e => !gone i e } } }

/-- Where no holder set changes, only the dispatch unit, the miss log and the causes do. -/
theorem State.withdrawTo_none (s : State) (d : DispatchUnit) (log : List MissRecord) (m : Byte) :
    s.withdrawTo d log m (fun _ _ => false) =
      { s with du := d, alert := { s.alert with missLog := log, causes := s.alert.causes ||| m } } := by
  have : (s.line.outs.mapFinIdx fun i o _ => { o with holders := o.holders.filter fun _ => !false }) = s.line.outs := by
    ext i hi : 1
    simp
  simp only [State.withdrawTo, this]

/-- A change that the dispatch unit and the miss log alone decide, and that does no more than `withdrawTo`. -/
def Withdrawing (f : State → State) : Prop :=
  ∀ (d : DispatchUnit) (log : List MissRecord), ∃ d' log' m gone, ∀ s : State, s.du = d → s.alert.missLog = log →
    f s = s.withdrawTo d' log' m gone

theorem Withdrawing.id : Withdrawing fun s => s := fun d log =>
  ⟨d, log, 0, fun _ _ => false, by rintro s rfl rfl; simp [State.withdrawTo_none]⟩

theorem Withdrawing.comp {f g : State → State} (hg : Withdrawing g) (hf : Withdrawing f) :
    Withdrawing fun s => g (f s) := fun d log => by
  obtain ⟨d1, log1, m1, gone1, h1⟩ := hf d log
  obtain ⟨d2, log2, m2, gone2, h2⟩ := hg d1 log1
  refine ⟨d2, log2, m1 ||| m2, fun i e => gone1 i e || gone2 i e, fun s hd hl => ?_⟩
  show g (f s) = _
  rw [h1 s hd hl, h2 _ rfl rfl]
  simp only [State.withdrawTo, BitVec.or_assoc, State.mk.injEq, LineUnit.mk.injEq, and_true, true_and]
  ext i hi : 1
  simp only [Vector.getElem_mapFinIdx, OutputLine.mk.injEq, List.filter_filter, true_and]
  congr 1
  funext e
  cases gone1 i e <;> cases gone2 i e <;> rfl

/-- The change may depend on the dispatch unit. -/
theorem Withdrawing.byDu {f : DispatchUnit → State → State} (h : ∀ d, Withdrawing (f d)) : Withdrawing fun s => f s.du s :=
  fun d log => by
    obtain ⟨d', log', m, gone, h'⟩ := h d d log
    refine ⟨d', log', m, gone, fun s hd hl => ?_⟩
    subst hd
    exact h' s rfl hl

theorem Withdrawing.setDu (g : DispatchUnit → DispatchUnit) : Withdrawing fun s => { s with du := g s.du } :=
  fun d log => ⟨g d, log, 0, fun _ _ => false, by rintro s rfl rfl; simp [State.withdrawTo_none]⟩

theorem Withdrawing.setCause (c : Cause) : Withdrawing fun s => s.setCause c := fun d log =>
  ⟨d, log, 1 <<< c.bit, fun _ _ => false, by rintro s rfl rfl; simp [State.setCause, State.withdrawTo_none]⟩

theorem Withdrawing.logMiss (r : MissRecord) : Withdrawing fun s => s.logMiss r := fun d log => by
  by_cases h : log.length < Config.missLogSize
  · exact ⟨d, log ++ [r], 0, fun _ _ => false, by rintro s rfl rfl; simp [State.logMiss, h, State.withdrawTo_none]⟩
  · exact ⟨d, log, 1 <<< Cause.missLost.bit, fun _ _ => false, by rintro s rfl rfl; simp [State.logMiss, h, State.setCause, State.withdrawTo_none]⟩

theorem Withdrawing.releaseHolder (l : OutLine) (e : EntryNo) : Withdrawing fun s => s.releaseHolder l e := fun d log => by
  refine ⟨d, log, 0, fun i x => decide (i = l.val ∧ x = e), ?_⟩
  rintro s rfl rfl
  have : s.line.outs.set l ((s.line.outs[l]).unhold e) = s.line.outs.mapFinIdx fun i o _ =>
      { o with holders := o.holders.filter fun x => !decide (i = l.val ∧ x = e) } := by
    ext i hi : 1
    by_cases h : i = l.val
    · subst h
      simp only [OutputLine.unhold, Fin.getElem_fin, Vector.getElem_set_self, Vector.getElem_mapFinIdx]
      congr 2
      funext x
      by_cases hx : x = e <;> simp [hx]
    · simp [h, Vector.getElem_set_ne, Ne.symm h]
  simp only [State.releaseHolder, State.setOut, State.withdrawTo, this, BitVec.ofNat_eq_ofNat, BitVec.or_zero]

theorem Withdrawing.releaseAfter (e : EntryNo) (line : Option OutLine) : Withdrawing fun s => s.releaseAfter e line := by
  cases line with
  | none => exact .id
  | some l =>
    refine .byDu (f := fun d s => if ({ State.reset with du := d } : State).hasRecord e then s else s.releaseHolder l e)
      fun d => ?_
    dsimp only
    split
    · exact .id
    · exact .releaseHolder l e

theorem Withdrawing.fold {α : Type} {f : State → α → State} (h : ∀ a, Withdrawing fun s => f s a) :
    ∀ l : List α, Withdrawing fun s => l.foldl f s
  | [] => .id
  | a :: l => (Withdrawing.fold h l).comp (h a)

theorem Withdrawing.refill : Withdrawing State.refill := by
  have : State.refill = fun s => { s with du := ({ State.reset with du := s.du } : State).refill.du } := by
    funext s
    simp only [State.refill]
    split
    · rfl
    · split <;> rfl
  rw [this]
  exact .setDu fun d => ({ State.reset with du := d } : State).refill.du

theorem Withdrawing.withdrawHeld (reason : MissReason) (r : Record) : Withdrawing fun s => s.withdrawHeld reason r :=
  (Withdrawing.releaseAfter r.entry r.pulseLine).comp
    ((Withdrawing.logMiss (r.miss reason)).comp (.setDu fun d => { d with held := d.held.erase r }))

theorem Withdrawing.withdrawEvent (reason : MissReason) (r : Record) : Withdrawing fun s => s.withdrawEvent reason r :=
  Withdrawing.refill.comp ((Withdrawing.releaseAfter r.entry r.pulseLine).comp
    ((Withdrawing.logMiss (r.miss reason)).comp (.setDu fun d => { d with pool := d.pool.erase r })))

theorem Withdrawing.withdrawStale : Withdrawing State.withdrawStale := by
  have hc (c : ClassNo) : Withdrawing fun s => s.withdrawStaleClass c :=
    .byDu (f := fun d s => ((({ State.reset with du := d } : State).classList c).filter Record.isStale).foldl
      (State.withdrawEvent .stale) s) fun d => .fold (fun r => .withdrawEvent .stale r) _
  have hh : Withdrawing State.withdrawStaleHeld :=
    .byDu (f := fun d s => (d.held.filter Record.isStale).foldl (State.withdrawHeld .stale) s)
      fun d => .fold (fun r => .withdrawHeld .stale r) _
  have ht := (Withdrawing.fold hc allClasses).comp hh
  refine .byDu (f := fun d s => if ({ State.reset with du := d } : State).anyStale
    then (allClasses.foldl State.withdrawStaleClass s.withdrawStaleHeld).setCause .stale
    else allClasses.foldl State.withdrawStaleClass s.withdrawStaleHeld) fun d => ?_
  dsimp only
  split
  · exact (Withdrawing.setCause .stale).comp ht
  · exact ht

theorem Withdrawing.finishStale : Withdrawing State.finishStale := by
  refine .byDu (f := fun d s => if d.staleOwed then
    ({ s with du := { s.du with staleOwed := false } } : State).withdrawStale else s) fun d => ?_
  dsimp only
  split
  · exact Withdrawing.withdrawStale.comp (.setDu fun d => { d with staleOwed := false })
  · exact .id

theorem Withdrawing.checkService : Withdrawing State.checkService := by
  have h := Withdrawing.setDu fun d =>
    { d with
      stack := d.stack.map fun r => if r.overruns d.limits then { r with overrunFlag := true } else r }
  refine .byDu (f := fun d s =>
    let t : State := { s with du := { s.du with
      stack := s.du.stack.map fun r => if r.overruns s.du.limits then { r with overrunFlag := true } else r } }
    if d.stack.any (ServiceRecord.overruns d.limits) then t.setCause .serviceOverrun else t) fun d => ?_
  dsimp only
  split
  · exact (Withdrawing.setCause .serviceOverrun).comp h
  · exact h

theorem Withdrawing.finishOverrun : Withdrawing State.finishOverrun := by
  refine .byDu (f := fun d s => if d.overrunOwed then
    ({ s with du := { s.du with overrunOwed := false } } : State).checkService else s) fun d => ?_
  dsimp only
  split
  · exact Withdrawing.checkService.comp (.setDu fun d => { d with overrunOwed := false })
  · exact .id

/-- What is left of a tick is decided by the dispatch unit and the miss log alone: it replaces these two, sets causes, and
takes members out of holder sets. So a change that reads and writes none of this comes to the same before it and after
it. -/
theorem Withdrawing.finishTick : Withdrawing State.finishTick := Withdrawing.finishOverrun.comp .finishStale

/-- A change that reads and writes none of what a tick's rest decides comes to the same before it and after it. -/
theorem State.finishTick_comm {f : State → State} (hd : ∀ s, (f s).du = s.du)
    (hl : ∀ s, (f s).alert.missLog = s.alert.missLog)
    (hw : ∀ s d log m gone, f (s.withdrawTo d log m gone) = (f s).withdrawTo d log m gone) (s : State) :
    (f s).finishTick = f s.finishTick := by
  obtain ⟨d, log, m, gone, h⟩ := Withdrawing.finishTick s.du s.alert.missLog
  rw [h s rfl rfl, hw, h (f s) (hd s) (hl s)]

/-! ## Runs, latch services and reads -/

/-- A run takes the head that is due, or finds none. -/
theorem State.runExpiry_cases (s : State) (limit : Word) :
    (∃ e, s.dueHead limit = some e ∧ s.runExpiry limit = s.expire e) ∨
    (s.dueHead limit = none ∧ s.runExpiry limit = s) := by
  cases h : s.dueHead limit <;> simp [State.runExpiry, h]

/-- The head is due at a limit when the list has one and its due time is due. -/
theorem State.dueHead_eq_some (s : State) (limit : Word) (e : EntryNo) :
    s.dueHead limit = some e ↔ ∃ l, s.lc.dueList = e :: l ∧ isDue (s.dueOf e) limit = true := by
  simp only [State.dueHead]
  cases s.lc.dueList with
  | nil => simp
  | cons f l =>
    by_cases h : isDue (s.dueOf f) limit = true
    · simp only [h, if_true, Option.some.injEq, List.cons.injEq]
      constructor
      · rintro rfl
        exact ⟨l, ⟨rfl, rfl⟩, h⟩
      · rintro ⟨_, ⟨rfl, _⟩, _⟩
        rfl
    · simp only [h, List.cons.injEq]
      constructor
      · simp
      · rintro ⟨_, ⟨rfl, _⟩, h'⟩
        exact absurd h' h

/-- A piece of work that has nothing left but its end is a run with no head due at its limit, or a latch that has been
served. -/
theorem State.atEnd_iff (s : State) : s.atEnd = true ↔
    (∃ limit, s.lc.work = .run (some limit) ∧ s.dueHead limit = none) ∨ s.lc.work = .latchServed := by
  cases h : s.lc.work with
  | run limit => cases limit <;> simp [State.atEnd, h]
  | _ => simp [State.atEnd, h]

/-- Such a piece of work ends before the next row of the controller's work. -/
theorem State.settle_atEnd {s : State} (h : s.atEnd = true) : s.settle = s.endWork := by simp [State.settle, h]

/-- Any other stays in hand. -/
theorem State.settle_not {s : State} (h : s.atEnd = false) : s.settle = s := by simp [State.settle, h]

/-- An operation in progress stays in hand. -/
theorem State.settle_operation {s : State} {ph : OpPhase} (h : s.lc.work = .operation ph) : s.settle = s :=
  s.settle_not (by simp [State.atEnd, h])

/-- What the arbiter has just chosen is not at its end. -/
@[simp] theorem State.endWork_atEnd (s : State) : s.endWork.atEnd = false := by
  rcases s.lc.choose_cases with ⟨_, h⟩ | ⟨_, _, _, h⟩ | ⟨_, _, _, h⟩ | ⟨_, _, _, h⟩ <;>
    simp [State.atEnd, State.endWork, h]

/-- Nothing is at its end after the end. -/
@[simp] theorem State.settle_settle (s : State) : s.settle.settle = s.settle := by
  cases h : s.atEnd
  · rw [State.settle_not h, State.settle_not h]
  · rw [State.settle_atEnd h, State.settle_not s.endWork_atEnd]

/-- With RESET* negated a row of the controller's work has its effect after the end of the piece before it. -/
theorem liveWork_eq {s : State} (h : s.Live) (f : State → State) : liveWork s f = .next (f s.settle) :=
  live_eq h fun s => f s.settle

/-- With RESET* negated a read drives the byte at its address, after the whole of a tick already taken. -/
theorem State.busRead_live {s : State} (h : s.Live) (a : WinAddr) : s.busRead a = some (s.finishTick.byteAt a) := by
  simp only [State.busRead, State.Live] at *
  simp [h]

/-- What is left of a tick is taken once. -/
@[simp] theorem State.finishTick_idem (s : State) : s.finishTick.finishTick = s.finishTick :=
  State.finishTick_none s.finishTick_marks.1 s.finishTick_marks.2

end Sys2Proof.Machine
end

