-- ==== Sys2Proof/WellFormed.lean ====
section
/-! DEFINITION. Which commands stand for an event of their row. `exec` gives an ill-formed command the meaning of the
bus write it spells; it refuses none. -/

namespace Sys2Proof

/-- A command is well formed when the operand it carries is one its row speaks of: a CONTROL write has the row's own bit
(R164), and a plain register write goes to a register without behaviour of its own (R162). -/
def Instr.wellFormed : Instr → Bool
  | .enable b => !b.getLsbD 1
  | .clearAll b => b.getLsbD 1
  | .clearCollision b => b.getLsbD 2
  | .popCapture b => b.getLsbD 3
  | .popMiss b => b.getLsbD 4
  | .registerWrite a _ => a == 0x2#4 || a == 0x6#4 || a == 0x7#4
  | .tbclkEdge | .tick | .listControllerTick | .dispatchTick | .staleWithdrawal | .serviceOverrun | .lineUnitTick
  | .divisorLow _ | .divisorHigh _ | .runStart | .runStop | .capture _ | .operation _ | .define | .release
  | .readDefinition | .readState | .arm _ | .armAt _ | .cancel | .clearClass | .setTime | .setTimeWalkCompletion
  | .configureLine | .configureClass | .unknownOperation | .dueProcessingRun | .triggerArm | .postRequest
  | .cancelRequest | .clearRequest | .presenceQuery | .serviceLimitReplacement | .acknowledge | .done _
  | .actionRequest | .lineConfiguration | .levelChange _ _ | .classMask _ | .alertClear _ | .alertEnable _
  | .outputSet _ | .outputClear _ | .stagePointer _ | .stageDataWrite _ | .stageDataRead | .viewData | .hardwareReset
  | .resetNegation | .runNextExpiry => true

end Sys2Proof
end

