-- ==== Sys2Proof/Tests/Slice0.lean ====
section
/-! SUPPORT. Tests of the model: ill-formed commands that WellFormed refuses, one-step checks whose expected values come from
the spec's rules and worked sequences, and, for each statement with hypotheses, a state and operands that meet them. -/

namespace Sys2Proof.Tests

open Sys2Proof Sys2Proof.Machine

/-! ## Ill-formed commands -/

theorem test_wellFormed_enable : (Instr.enable 0x03).wellFormed = false := by decide
theorem test_wellFormed_clearAll : (Instr.clearAll 0x01).wellFormed = false := by decide
theorem test_wellFormed_clearCollision : (Instr.clearCollision 0x01).wellFormed = false := by decide
theorem test_wellFormed_popCapture : (Instr.popCapture 0x11).wellFormed = false := by decide
theorem test_wellFormed_popMiss : (Instr.popMiss 0x09).wellFormed = false := by decide
theorem test_wellFormed_registerWrite : (Instr.registerWrite 0x5 0).wellFormed = false := by decide
theorem test_wellFormed_accepts : (Instr.popMiss 0x11).wellFormed = true ∧ (Instr.registerWrite 0x7 0).wellFormed = true := by
  decide

/-! ## Helpers -/

/-- The state that one command leaves. -/
def after (c : Instr) (s : State) : State :=
  match exec c s with
  | .next t => t
  | _ => s

/-- An image from its first bytes; the others are 0. -/
def imageOf (bs : List Byte) : Image := Vector.ofFn fun i => bs.getD i 0

/-- What the slot holds. -/
def hostOp (code sel : Byte) (bs : List Byte) : HostOp := { code := code, image := imageOf bs, entrySelect := sel }

/-- An operation IN PROGRESS. -/
def working (s : State) (op : HostOp) (ph : OpPhase) : State :=
  { s with lc := { s.lc with slot := some op, work := .operation ph } }

/-- A definition: POST, class 3, delay 5, one-shot. -/
def defn : Definition := { Definition.cleared with cls := 3, delivery := .post, delay := 5 }

/-- An IDLE entry. -/
def idle (d : Definition) : Entry := { Entry.free with timing := .idle, defn := d }

/-- An ARMED entry with a due time. -/
def armed (d : Definition) (due : Word) : Entry :=
  { Entry.free with timing := .armed, defn := d, due := some due, remaining := d.firstRemaining }

/-- The state with an entry; an ARMED one stands at the tail of the due list. -/
def withEntry (s : State) (e : EntryNo) (en : Entry) : State :=
  { s with lc := { s.lc with
    entries := s.lc.entries.set e en
    dueList := if en.timing = .armed then s.lc.dueList ++ [e] else s.lc.dueList } }

/-- The state at a count. -/
def atCount (n : Word) : State := { State.reset with time := { State.reset.time with count := n } }

/-- Entry 3 IDLE. -/
def idle3 : State := withEntry State.reset 3 (idle defn)

/-- Entry 3 ARMED with due time 7. -/
def armed3 : State := withEntry State.reset 3 (armed defn 7)

/-- An event of an entry. -/
def event (e : EntryNo) (c : ClassNo) : Record :=
  { entry := e, cls := c, firstOcc := 1, due := 4, expiry := 6, overrun := 0, age := 2, staleLimit := 0, pulseLine := none }

/-- A record in service. -/
def service (e : EntryNo) (c : ClassNo) : ServiceRecord := (event e c).service 9

/-- The state with a pool, a held queue and a stack. -/
def waiting (pool held : List Record) (stack : List ServiceRecord) : State :=
  { State.reset with du := { State.reset.du with pool := pool, held := held, stack := stack, classMask := 0 } }

/-- A pool of 32 events of the entries 0 to 31. -/
def fullPool : List Record := (List.range 32).map fun n => event (Fin.ofNat 64 n) 6

/-- A post request of an entry. -/
def post (e : EntryNo) (l : Option OutLine) : PostReq :=
  { entry := e, cls := 3, occurrence := 2, due := 10, expiry := 14, staleLimit := 0, pulseLine := l }

/-- The state with requests under way. -/
def issued (posts : List PostReq) (actions : List ActionReq) : State :=
  { State.reset with link := { State.reset.link with posts := posts, actions := actions } }

/-- The state with ticks handed over to each block. -/
def handed (s : State) (k : Nat) : State :=
  { s with link := { s.link with ticksToList := k, ticksToDispatch := k, ticksToLine := k } }

/-- The state with a tick's withdrawals and check still to make. -/
def tickOwed (s : State) : State := { s with du := { s.du with staleOwed := true, overrunOwed := true } }

/-- The state with a line configuration and its counter. -/
def withLine (s : State) (n : InLine) (cfg : LineConfig) (counter : Byte) : State :=
  s.setIn n { s.line.ins[n] with cfg := cfg, counter := counter }

/-- The state that works on a latch. -/
def latched (s : State) (n : InLine) (t : Option Word) : State :=
  { s with lc := { s.lc with latches := s.lc.latches.set n t, work := .latch n } }

/-! ## One-step checks (expected values from the rules named) -/

-- R2, R3, R5 to R7: the edge at divisor 0 (65536) that makes the tick.
theorem test_tbclkEdge_phase :
    (after .tbclkEdge { State.reset with time := { State.reset.time with run := true } }).time.phase = 1 := by decide
theorem test_tick_last_edge :
    (after .tick { State.reset with time := { State.reset.time with run := true, phase := 0xFFFF, count := 0xFFFFFFFF } }).time
      = { State.reset.time with run := true } := by decide
theorem test_tick_handed_over :
    (after .tick { State.reset with time := { State.reset.time with run := true, phase := 0xFFFF } }).link.ticksToLine
      = 1 := by decide
theorem test_divisorHigh_forms_pair :
    (after (.divisorHigh 0x12) { State.reset with time := { State.reset.time with lowHold := 0x34 } }).time.stagedDivisor
      = 0x1234 := by decide
theorem test_divisorLow_hold : (after (.divisorLow 0x34) State.reset).time.stagedDivisor = 0 := by decide
theorem test_runStart_clears_phase :
    (after .runStart { State.reset with time := { State.reset.time with phase := 9 } }).time.phase = 0 := by decide
theorem test_runStop_keeps_phase :
    (after .runStop { State.reset with time := { State.reset.time with phase := 9, run := true } }).time.phase = 9 := by
  decide
-- R11: the snapshot takes the phase as it stood before the start.
theorem test_capture_before_start :
    (after (.capture true) { State.reset with time := { State.reset.time with phase := 9 } }).time.snapPhase = 9 := by decide
-- R46, R59: a controller at rest takes the run at once.
theorem test_listControllerTick : (after .listControllerTick (handed State.reset 1)).lc.work = .run none := by decide
-- R87, R114.
theorem test_dispatchTick_ages :
    (after .dispatchTick (handed (waiting [event 1 3] [] [service 2 2]) 1)).du.pool.map Record.age = [3] := by decide
theorem test_dispatchTick_saturates :
    (after .dispatchTick (handed (waiting [{ event 1 3 with age := 0xFFFFFFFF }] [] []) 1)).du.pool.map Record.age
      = [0xFFFFFFFF] := by decide
-- R88: age 2 at limit 2 is stale; the record is logged STALE.
theorem test_staleWithdrawal :
    (after .staleWithdrawal (tickOwed (waiting [{ event 1 3 with staleLimit := 2 }] [] []))).alert.missLog.map MissRecord.reason
      = [.stale] := by decide
theorem test_staleWithdrawal_limit_above_age :
    (after .staleWithdrawal (tickOwed (waiting [{ event 1 3 with staleLimit := 3 }] [] []))).du.pool.length = 1 := by decide
-- R115: elapsed 4 at limit 4.
theorem test_serviceOverrun :
    let s := waiting [] [] [{ service 2 2 with elapsed := 4 }]
    let t := after .serviceOverrun (tickOwed { s with du := { s.du with limits := s.du.limits.set 2 4 } })
    t.alert.causes = 0x08 ∧ t.du.stack.map ServiceRecord.overrunFlag = [true] := by decide
-- R136.
theorem test_lineUnitTick :
    ((after .lineUnitTick (handed (withLine State.reset 1 .reset 3) 1)).line.ins[1]).counter = 2 := by decide
-- R62, R64.
theorem test_operation_taken : (after (.operation 0x05) State.reset).lc.work = .operation .started := by decide
theorem test_operation_collision :
    (after (.operation 0x05) (working State.reset (hostOp 1 0 []) .started)).win.collision = true := by decide
-- R25 with the layout of R169: class 3, POST, delay 5.
theorem test_define_layout :
    (after .define (working State.reset (hostOp 1 3 [0x0B, 0, 5, 0, 0, 0, 0, 0, 0, 0, 0, 0, 0xFF]) .started)).entry 3
      = idle defn := by decide
theorem test_define_bad_delay :
    (after .define (working State.reset (hostOp 1 3 [0x0B, 0, 0, 0, 0, 0x80, 0, 0, 0, 0, 0, 0, 0xFF]) .started)).lc.opResult
      = .badDelay := by decide
theorem test_release : (after .release (working idle3 (hostOp 2 3 []) .started)).entry 3 = .free := by decide
theorem test_readDefinition :
    (after .readDefinition (working idle3 (hostOp 3 3 []) .started)).win.staging
      = imageOf [0x0B, 0, 5, 0, 0, 0, 0, 0, 0, 0, 0, 0, 0xFF] := by decide
theorem test_readState :
    (after .readState (working armed3 (hostOp 4 3 []) .started)).win.staging = imageOf [2, 0, 7] := by decide
-- R40: due time count plus delay.
theorem test_arm : ((after (.arm .whole) (working idle3 (hostOp 5 3 []) .started)).entry 3).due = some 5 := by decide
theorem test_arm_carryOut_keeps_slot :
    (after (.arm .carryOut) (working idle3 (hostOp 5 3 []) .started)).busy = true := by decide
theorem test_armAt_past_due :
    (after (.armAt .whole) (working idle3 (hostOp 6 3 [0, 0, 0, 0]) .started)).lc.opResult = .pastDue := by decide
theorem test_cancel : (after .cancel (working armed3 (hostOp 7 3 []) .started)).lc.dueList = [] := by decide
theorem test_cancel_no_effect :
    (after .cancel (working idle3 (hostOp 7 3 []) .started)).lc.opResult = .noEffect := by decide
theorem test_clearClass_other_class :
    (after .clearClass (working armed3 (hostOp 8 0 [2]) .started)).lc.dueList = [3] := by decide
theorem test_setTime_shifts_latches :
    let s := working { State.reset with lc := { State.reset.lc with latches := State.reset.lc.latches.set 0 (some 6) } }
      (hostOp 9 0 [0, 1]) .started
    (after .setTime s).lc.latches[0] = some 262 ∧ (after .setTime s).time.count = 256 := by decide
theorem test_setTimeWalkCompletion :
    ((after .setTimeWalkCompletion (working armed3 (hostOp 9 0 [0, 1]) (.adjusting 256))).entry 3).due = some 263 := by
  decide
theorem test_configureLine :
    ((after .configureLine (working idle3 (hostOp 10 0 [2, 0x07, 3, 20]) .started)).line.ins[2]).cfg
      = { edgeSelect := .both, captureOn := true, trigger := some 3, holdOff := 20 } := by decide
theorem test_configureClass :
    (after .configureClass (working State.reset (hostOp 11 0 [6, 0x34, 0x12]) .started)).du.limits[6] = 0x1234 := by decide
theorem test_unknownOperation :
    (after .unknownOperation (working State.reset (hostOp 12 0 []) .started)).lc.opResult = .unknownOperation := by decide
-- R47, R49 to R52: entry 3 expires at its due time.
theorem test_dueProcessingRun :
    let s : State := { armed3 with time := { armed3.time with count := 7 }, lc := { armed3.lc with owed := true, work := .run none } }
    (after .dueProcessingRun s).link.posts.map PostReq.occurrence = [1] ∧ (after .dueProcessingRun s).lc.work = .run (some 7) := by
  decide
theorem test_dueProcessingRun_not_due :
    (after .dueProcessingRun { armed3 with lc := { armed3.lc with owed := true, work := .run none } }).lc.dueList = [3] := by
  decide
-- R48: a tick has come after the last expiry, and at the end of the run a further run is taken.
theorem test_runNextExpiry_further_run :
    (after .runNextExpiry { State.reset with lc := { State.reset.lc with owed := true, work := .run (some 7) } }
      ).lc.work = .run none := by decide
theorem test_runNextExpiry_not_due_ends :
    (after .runNextExpiry { armed3 with lc := { armed3.lc with work := .run (some 6) } }).lc.dueList = [3] := by decide
-- R56: edge time 6 plus delay 5.
theorem test_triggerArm :
    ((after .triggerArm (latched (withLine idle3 1 { LineConfig.reset with trigger := some 3 } 0) 1 (some 6))).entry 3).due
      = some 11 := by decide
-- R57: an edge during the service is a new fill, which the choice at its end finds.
theorem test_triggerArm_new_fill :
    let s : State := { State.reset with lc := { State.reset.lc with
      latches := State.reset.lc.latches.set 1 (some 9), work := .latchServed } }
    (after .runNextExpiry s).lc.work = .latch 1 := by decide
-- R59: the operation that waits is taken at the end of the service before it.
theorem test_operation_after_service :
    let s := working State.reset (hostOp 12 0 []) .started
    (after .unknownOperation { s with lc := { s.lc with work := .latchServed } }).lc.opResult = .unknownOperation := by decide
-- R81: starting age is the lateness 4.
theorem test_postRequest_new : (after .postRequest (issued [post 3 none] [])).du.pool.map Record.age = [4] := by decide
theorem test_postRequest_pulse :
    ((after .postRequest (issued [post 3 (some 2)] [.pulse 2 3])).line.outs[2]).holders = [3] := by decide
theorem test_cancelRequest :
    let s := withEntry (waiting [event 3 3] [] []) 3 (idle defn)
    (after .cancelRequest (working s (hostOp 7 3 [1]) .started)).lc.work = .operation (.carriedOut .complete) := by
  decide
-- R70: the walk comes before the request.
theorem test_clearRequest_walks_first :
    let s := withEntry (waiting [event 4 3] [] []) 3 (armed defn 7)
    (after .clearRequest (working s (hostOp 8 0 [3]) .started)).lc.dueList = [] := by decide
theorem test_clearRequest :
    (after .clearRequest (working (waiting [event 3 3, event 4 2] [] []) (hostOp 8 0 [3]) .started)).du.pool
      = [event 4 2] := by decide
theorem test_presenceQuery :
    (after .presenceQuery (working (waiting [] [] [service 3 3]) (hostOp 4 3 []) .started)).lc.work
      = .operation (.presence { pending := false, held := false, inService := true }) := by decide
theorem test_serviceLimitReplacement :
    (after .serviceLimitReplacement (working State.reset (hostOp 11 0 [6, 1]) .started)).du.limits[6] = 1 := by decide
-- R102 to R104: class 2 before class 5; the codes 80H and 81H.
theorem test_acknowledge_lowest_class :
    (after .acknowledge (waiting [event 9 5, event 8 2] [] [])).win.readData = some 8 := by decide
theorem test_acknowledge_equal_class :
    (after .acknowledge (waiting [event 9 5] [] [service 7 5])).win.readData = some 0x80 := by decide
theorem test_done_accepted : (after (.done 7) (waiting [] [] [service 7 5])).du.stack = [] := by decide
theorem test_done_refused : (after (.done 7) (waiting [] [] [service 6 4, service 7 5])).alert.causes = 0x80 := by decide
theorem test_actionRequest_toggle : ((after .actionRequest (issued [] [.toggle 5])).line.outs[5]).base = true := by decide
theorem test_lineConfiguration :
    ((after .lineConfiguration (working idle3 (hostOp 10 0 [2, 1, 0xFF, 20]) .started)).line.ins[2]).cfg.edgeSelect
      = .rising := by decide
theorem test_levelChange_recognized :
    let s := withLine State.reset 1 { edgeSelect := .rising, captureOn := true, trigger := some 3, holdOff := 4 } 0
    let t := after (.levelChange 1 true) s
    t.line.captures.length = 1 ∧ t.alert.causes = 0x20 ∧ t.lc.latches[1] = some 0 ∧ (t.line.ins[1]).counter = 4 := by decide
theorem test_levelChange_hold_off :
    (after (.levelChange 1 true) (withLine State.reset 1 { LineConfig.reset with edgeSelect := .rising, captureOn := true } 1)
      ).line.captures = [] := by decide
theorem test_enable : (after (.enable 1) State.reset).du.enable = true := by decide
theorem test_clearAll_keeps_enable :
    let s := waiting [event 1 1] [] []
    let t := after (.clearAll 0x02) { s with du := { s.du with enable := true } }
    t.du.enable = true ∧ t.du.pool = [] := by decide
theorem test_clearAll_aborts :
    (after (.clearAll 0x02) (working State.reset (hostOp 5 0 []) .started)).lc.opResult = .aborted := by decide
theorem test_clearCollision :
    (after (.clearCollision 0x05) { State.reset with win := { State.reset.win with collision := true } }).win.collision
      = false := by decide
theorem test_popCapture :
    let r : CaptureRecord := { line := 0, edge := .rising, count := 1, phase := 0 }
    (after (.popCapture 0x08) { State.reset with line := { State.reset.line with captures := [r, { r with line := 1 }] } }
      ).line.captures = [{ r with line := 1 }] := by decide
theorem test_popMiss :
    let m := (event 1 1).miss .stale
    (after (.popMiss 0x10) { State.reset with alert := { State.reset.alert with missLog := [m] } }).alert.missLog = [] := by
  decide
theorem test_classMask : (after (.classMask 0x40) State.reset).du.classMask = 0x40 := by decide
theorem test_alertClear :
    (after (.alertClear 0x81) { State.reset with alert := { State.reset.alert with causes := 0xC1 } }).alert.causes = 0x40 := by
  decide
-- R115: the overrun of a tick already taken is set once, before the clear.
theorem test_alertClear_after_tick :
    let s := waiting [] [] [{ service 2 2 with elapsed := 4 }]
    let t := after (.alertClear 0x08) (tickOwed { s with du := { s.du with limits := s.du.limits.set 2 4 } })
    t.busRead 0x9 = some 0 ∧ t.du.stack.map ServiceRecord.overrunFlag = [true] := by decide
-- R163: INT active and ALERT active are the levels of the two lines, with a tick half taken too.
theorem test_status_reports_lines :
    let s := waiting [{ event 1 3 with staleLimit := 2 }] [] []
    let t := tickOwed { s with du := { s.du with enable := true }, alert := { s.alert with enables := 0x04 } }
    t.intAsserted = false ∧ t.alertAsserted = true ∧ t.busRead 0x0 = some 0x41 := by decide
-- R161, R173: D0 to D7 are not driven under RESET*.
theorem test_busRead_under_reset : (after .hardwareReset State.reset).busRead 0x8 = none := by decide
theorem test_alertEnable_asserts :
    (after (.alertEnable 0x40) { State.reset with alert := { State.reset.alert with causes := 0x40 } }).alertAsserted
      = true := by decide
theorem test_outputSet : (after (.outputSet 0x81) State.reset).outputLevels = 0x81 := by decide
theorem test_outputClear :
    (after (.outputClear 0x08) (State.reset.perform (.pulse 3 20))).outputLevels = 0 := by decide
theorem test_stagePointer : (after (.stagePointer 0xF5) State.reset).win.stagePtr = 5 := by decide
theorem test_stageDataWrite_wraps :
    (after (.stageDataWrite 0xAB) { State.reset with win := { State.reset.win with stagePtr := 15 } }).win.stagePtr = 0 := by
  decide
theorem test_stageDataRead :
    (after .stageDataRead { State.reset with win := { State.reset.win with staging := imageOf [7] } }).win.readData = some 7 := by
  decide
theorem test_viewData_depth : (after .viewData (waiting [] [] [service 7 5])).win.readData = some 1 := by decide
theorem test_viewData_index_wraps :
    (after .viewData { State.reset with win := { State.reset.win with viewIndex := 31 } }).win.viewIndex = 0 := by decide
theorem test_registerWrite_viewSelect : (after (.registerWrite 0x6 0xA3) State.reset).win.viewSource = 5 := by decide
theorem test_registerWrite_ignored : after (.registerWrite 0x7 0xA3) State.reset = State.reset := by decide
theorem test_hardwareReset_mask : (after .hardwareReset (waiting [event 1 1] [] [])).du.classMask = 0xFF := by decide
theorem test_resetNegation_takes_level :
    ((after .resetNegation (after .hardwareReset (after (.levelChange 2 true) State.reset))).line.ins[2]).lastLevel
      = true := by decide

/-! ## Witnesses: for each statement with hypotheses, a state and operands that meet them

A statement whose only hypothesis is that RESET* stands negated has `witness_live`. -/

-- DivisorWritesAndReads, TimeControlWrites, ListControllerTickOwesARun, PostRequestTakenByFirstCase (its exec clauses),
-- DispatchTickAgesAndTimes, TickIsTakenWhole, OutputWritesSelectLines, ControlWriteReachesItsOwners, PlainRegisterCommands,
-- AddressesRouteWritesAndReads, ViewsShowTheirLayouts, HardwareResetValues (its third clause).
theorem witness_live : State.reset.Live := rfl

theorem witness_StepTakesFrontCommand :
    ({ State.reset with pending := [.tick, .runStart] } : State).pending = .tick :: [.runStart] ∧ State.reset.pending = [] :=
  ⟨rfl, rfl⟩
theorem witness_NothingIsTakenUnderReset : State.reset.hardwareReset.win.resetAsserted = true := rfl
theorem witness_EdgeAdvancesPhaseOrTicks :
    let running (p : Half) : State := { State.reset with time := { State.reset.time with run := true, phase := p } }
    State.reset.Live ∧ State.reset.time.run = false ∧
    (running 0xFFFE).time.run = true ∧ (running 0xFFFE).time.phase.toNat + 1 < 65536 ∧
    (running 0xFFFF).time.run = true ∧ 65536 ≤ (running 0xFFFF).time.phase.toNat + 1 := by
  refine ⟨rfl, ?_⟩
  decide
theorem witness_PhaseStaysBelowDivisor :
    let s : State := { State.reset with pending := [.tbclkEdge], time := { State.reset.time with run := true, phase := 0xFFFF } }
    PhaseLaw s ∧ step s = .next (after .tbclkEdge { s with pending := [] }) := ⟨by unfold PhaseLaw; decide, rfl⟩
theorem witness_TimesCompareBySignedDifference :
    (1 ≤ (1#32).toNat ∧ (1#32).toNat < 2 ^ 31) ∧ (1 ≤ (0x7FFFFFFF#32).toNat ∧ (0x7FFFFFFF#32).toNat < 2 ^ 31) := by decide
theorem witness_OthersLeaveTheTimeBase :
    exec (.classMask 0) State.reset = .next (after (.classMask 0) State.reset) ∧
    exec (.registerWrite 0xC 1) State.reset = .next (after (.registerWrite 0xC 1) State.reset) ∧ (0xC : WinAddr).toNat < 13 :=
  ⟨rfl, rfl, by decide⟩
theorem witness_DefinitionImageRoundTrip :
    defn.legal = true ∧ ({ defn with output := some ⟨.pulse, 7⟩, period := some 0x7FFFFFFF, repeatLimit := 0xFFFF } : Definition).legal = true ∧
    formOk (encodeDefinition defn) = true ∧ delaysOk (decodeDefinition (encodeDefinition defn)) = true := by decide

/-! ### DEFINE, RELEASE and the reads -/

/-- The DEFINE image of `defn`, with its follow-on. -/
def defImage (followOn : Byte) : List Byte := [0x0B, 0, 5, 0, 0, 0, 0, 0, 0, 0, 0, 0, followOn]

theorem witness_DefineMakesItsChecksInOrder_badEntry :
    let op := hostOp 1 64 []
    let s := working State.reset op .started
    s.Live ∧ s.Carries .define op .started ∧ op.NamesNone := ⟨rfl, ⟨rfl, rfl, rfl⟩, Nat.le_refl 64⟩
theorem witness_DefineMakesItsChecksInOrder_armed :
    let op := hostOp 1 3 []
    let s := working armed3 op .started
    s.Live ∧ s.Carries .define op .started ∧ op.Names 3 ∧ (s.entry 3).timing = .armed := ⟨rfl, ⟨rfl, rfl, rfl⟩, rfl, rfl⟩
theorem witness_DefineMakesItsChecksInOrder_hasEvents :
    let op := hostOp 1 63 []
    let p : Presence := { pending := false, held := false, inService := true }
    let s := working State.reset op (.presence p)
    s.Carries .define op (.presence p) ∧ op.Names 63 ∧ (s.entry 63).timing ≠ .armed ∧ s.Queried (.presence p) 63 s p ∧
      p.any = true := ⟨⟨rfl, rfl, rfl⟩, rfl, by decide, .inl ⟨rfl, rfl⟩, rfl⟩
theorem witness_DefineMakesItsChecksInOrder_badField :
    let op := hostOp 1 3 [0x20]
    let s := working State.reset op .started
    s.Carries .define op .started ∧ op.Names 3 ∧ s.Queried .started 3 s.takeAllPosts (s.takeAllPosts.presence 3) ∧
      (s.takeAllPosts.presence 3).any = false ∧ formOk op.image = false :=
  ⟨⟨rfl, rfl, rfl⟩, rfl, .inr ⟨rfl, rfl, rfl⟩, by decide, by decide⟩
theorem witness_FormCheckIsTheSixCases :
    let op := hostOp 1 3 [0x20]
    let s := working State.reset op .started
    s.Live ∧ s.Carries .define op .started ∧ op.Names 3 ∧ (s.entry 3).timing ≠ .armed ∧
      (∀ r ∈ s.du.pool ++ s.du.held, r.entry ≠ 3) ∧ (∀ r ∈ s.du.stack, r.entry ≠ 3) ∧ s.link.posts = [] ∧
      s.du.staleOwed = false ∧ s.du.overrunOwed = false ∧ op.image[0].toNat / 32 ≠ 0 ∧ 4 < (imageOf [0, 5])[1].toNat % 8 ∧ (imageOf [0, 0x70])[1].toNat / 16 % 8 ≠ 0 ∧
      64 ≤ (imageOf [0, 0, 0, 0, 0, 0, 0, 0, 0, 0, 0, 0, 254])[12].toNat ∧ (imageOf [0, 4])[1].toNat % 8 = 4 ∧
      (imageOf [0, 0, 0, 0, 0, 0, 0, 0, 0, 0, 0, 1])[11] ≠ 0 :=
  ⟨rfl, ⟨rfl, rfl, rfl⟩, rfl, by decide, by decide, by decide, by decide, by decide, by decide, by decide, by decide,
    by decide, by decide, by decide, by decide⟩
theorem witness_DefineMakesItsChecksInOrder_badDelay :
    let op := hostOp 1 3 [0x0B, 0, 0, 0, 0, 0x80, 0, 0, 0, 0, 0, 0, 0xFF]
    let s := working State.reset op .started
    s.Carries .define op .started ∧ (s.takeAllPosts.presence 3).any = false ∧ formOk op.image = true ∧
      delaysOk (decodeDefinition op.image) = false := ⟨⟨rfl, rfl, rfl⟩, by decide, by decide, by decide⟩
-- R27 at the ends of the range: a delay of 0, 1, 7FFFFFFFH and 80000000H, and the same as a period, where 0 is absent.
theorem witness_DefineMakesItsChecksInOrder_delays :
    let of (a b c d : Byte) := delaysOk (decodeDefinition (imageOf [0x0B, 0, a, b, c, d, 0, 0, 0, 0, 0, 0, 0xFF]))
    of 0 0 0 0 = false ∧ of 1 0 0 0 = true ∧ of 0xFF 0xFF 0xFF 0x7F = true ∧ of 0 0 0 0x80 = false := by decide
theorem witness_DefineMakesItsChecksInOrder_periods :
    let of (a b c d : Byte) := delaysOk (decodeDefinition (imageOf [0x0B, 0, 5, 0, 0, 0, a, b, c, d, 0, 0, 0xFF]))
    of 0 0 0 0 = true ∧ of 1 0 0 0 = true ∧ of 0xFF 0xFF 0xFF 0x7F = true ∧ of 0 0 0 0x80 = false := by decide
theorem witness_DefinitionImageRoundTrip_legal : defn.legal = true ∧ { defn with delay := 0x80000000 }.legal = false := by decide
theorem witness_DefineMakesItsChecksInOrder_link :
    let op := hostOp 1 3 (defImage 63)
    let s := working State.reset op .started
    formOk op.image = true ∧ delaysOk (decodeDefinition op.image) = true ∧ (s.takeAllPosts.presence 3).any = false ∧
      (decodeDefinition op.image).followOn = some 63 ∧ (63 : EntryNo) ≠ 3 ∧ (s.entry 63).timing = .free := by decide
theorem witness_DefineMakesItsChecksInOrder_complete :
    let op := hostOp 1 3 (defImage 3)
    let s := working State.reset op .started
    formOk op.image = true ∧ delaysOk (decodeDefinition op.image) = true ∧ (s.takeAllPosts.presence 3).any = false ∧
      ¬ ∃ f, (decodeDefinition op.image).followOn = some f ∧ f ≠ 3 ∧ (s.entry f).timing = .free := by
  refine ⟨by decide, by decide, by decide, ?_⟩
  rintro ⟨f, h1, h2, -⟩
  exact h2 (Option.some.inj (h1.symm.trans (by decide)))
theorem witness_ReleaseMakesItsChecksInOrder :
    let op := hostOp 2 3 []
    (State.reset.Live ∧ (hostOp 2 255 []).NamesNone) ∧
    (working State.reset op .started).Carries .release op .started ∧ op.Names 3 ∧
    ((working State.reset op .started).entry 3).timing = .free ∧ ((working armed3 op .started).entry 3).timing = .armed ∧
    ((working idle3 op .started).entry 3).timing = .idle := by
  refine ⟨⟨rfl, (by decide : 64 ≤ 255)⟩, ⟨rfl, rfl, rfl⟩, rfl, ?_⟩
  decide
theorem witness_ReleaseMakesItsChecksInOrder_queried :
    let op := hostOp 2 3 []
    let s := working idle3 op .started
    let linked := withLine s 1 { LineConfig.reset with trigger := some 3 } 0
    s.Queried .started 3 s.takeAllPosts (s.takeAllPosts.presence 3) ∧ (s.takeAllPosts.presence 3).any = false ∧
    (s.takeAllPosts.referenced 3 = false) ∧ (linked.takeAllPosts.line.ins[(1 : InLine)]).cfg.trigger = some 3 ∧
    ((working (waiting [] [event 3 3] []) op .started).takeAllPosts.presence 3).any = true :=
  ⟨.inr ⟨rfl, rfl, rfl⟩, by decide, by decide, by decide, by decide⟩
theorem witness_ReadDefinitionWritesTheImage :
    let op := hostOp 3 3 []
    (working idle3 op .started).Live ∧ (working idle3 op .started).Carries .readDefinition op .started ∧
    (hostOp 3 64 []).NamesNone ∧ op.Names 3 ∧ ((working idle3 op .started).entry 3).timing ≠ .free ∧
    ((working State.reset op .started).entry 3).timing = .free := by
  refine ⟨rfl, ⟨rfl, rfl, rfl⟩, Nat.le_refl 64, rfl, ?_⟩
  decide
theorem witness_ReadStateWritesTheLayout :
    let op := hostOp 4 63 []
    let s := working State.reset op .started
    s.Live ∧ s.Carries .readState op .started ∧ (hostOp 4 64 []).NamesNone ∧ op.Names 63 ∧
    s.Queried .started 63 s.takeAllPosts (s.takeAllPosts.presence 63) :=
  ⟨rfl, ⟨rfl, rfl, rfl⟩, Nat.le_refl 64, rfl, .inr ⟨rfl, rfl, rfl⟩⟩

/-! ### Slot, arbiter and completion -/

theorem witness_OperationWriteFillsTheSlotOrCollides :
    State.reset.lc.slot = none ∧ State.reset.lc.work = .rest ∧ State.reset.lc.owed = false ∧
    (∀ n : InLine, State.reset.lc.latches[n] = none) ∧
    (working State.reset (hostOp 1 0 []) .started).lc.slot = some (hostOp 1 0 []) ∧
    ({ State.reset with lc := { State.reset.lc with work := .run none, owed := true } } : State).lc.work ≠ .rest := by decide
theorem witness_ArbiterOrderIsFixed :
    let c := State.reset.lc
    ({ c with owed := true } : ListController).owed = true ∧
    (({ c with latches := c.latches.set 3 (some 0) } : ListController).latches[(3 : InLine)]).isSome ∧
    (∀ m : InLine, m < 3 → ({ c with latches := c.latches.set 3 (some 0) } : ListController).latches[m] = none) ∧
    c.owed = false ∧ (∀ n : InLine, c.latches[n] = none) := by decide
theorem witness_CompletionLatchesResultAndEmptiesSlot_latch :
    let c : ListController := { State.reset.lc with latches := State.reset.lc.latches.set 3 (some 0) }
    c.owed = false ∧ (c.latches[(3 : InLine)]).isSome ∧ (∀ m : InLine, m < 3 → c.latches[m] = none) := by decide
theorem witness_CompletionLatchesResultAndEmptiesSlot :
    ({ State.reset with lc := { State.reset.lc with owed := true } } : State).lc.owed = true ∧ State.reset.lc.owed = false ∧
    (∀ n : InLine, State.reset.lc.latches[n] = none) := by decide
theorem witness_UnknownOperationOnlyCompletes :
    let s := working State.reset (hostOp 0xFF 0 []) .started
    s.lc.slot = some (hostOp 0xFF 0 []) ∧ s.lc.work = .operation .started ∧ OpName.ofCode (hostOp 0xFF 0 []).code = none := by
  decide
theorem witness_UnknownOperationOnlyCompletes_none :
    State.reset.atEnd = false ∧ ∀ op ph, State.reset.lc.slot = some op → State.reset.lc.work = .operation ph → OpName.ofCode op.code ≠ none := by
  refine ⟨rfl, ?_⟩
  intro op ph h
  cases h
theorem witness_OperationAndResultCodes :
    let op := hostOp 12 0 []
    let s := working State.reset op .started
    (12#8).toNat > 11 ∧ (0#8).toNat = 0 ∧ State.reset.lc.slot = none ∧ s.lc.slot = some op ∧
    s.lc.work = .operation .started ∧ 11 < op.code.toNat := by decide
theorem witness_WorkNotInHandChangesNothing :
    State.reset.Live ∧ State.reset.atEnd = false ∧ (∀ n op ph, ¬ State.reset.Carries n op ph) ∧
    State.reset.lc.work ≠ .run none ∧ (∀ limit, State.reset.lc.work ≠ .run (some limit)) ∧
    (∀ n, State.reset.lc.work ≠ .latch n) := by
  refine ⟨rfl, rfl, ?_, by decide, ?_, by decide⟩
  · rintro n op ph ⟨h, -⟩
    cases h
  · intro limit h
    cases h
theorem witness_WorkNotInHandChangesNothing_end :
    let run (w : Work) : State := { armed3 with lc := { armed3.lc with work := w } }
    (run .latchServed).atEnd = true ∧ (run (.run (some 6))).atEnd = true ∧ (run (.run (some 7))).atEnd = false ∧
    isDue ((run (.run (some 6))).dueOf 3) 6 = false := by decide
theorem witness_WorkNotInHandChangesNothing_phase :
    (working idle3 (hostOp 7 3 []) (.carriedOut .complete)).Carries .cancel (hostOp 7 3 []) (.carriedOut .complete) ∧
    (working idle3 (hostOp 8 0 [8]) .started).Carries .clearClass (hostOp 8 0 [8]) .started ∧
    8 ≤ (hostOp 8 0 [8]).image[0].toNat ∧ (hostOp 7 64 []).NamesNone ∧
    (working idle3 (hostOp 7 3 []) .started).atEnd = false ∧ (∀ d, OpPhase.started ≠ .adjusting d) ∧
    OpPhase.carriedOut .complete ≠ .started ∧ OpPhase.adjusting 1 ≠ .started ∧
    (working idle3 (hostOp 10 3 []) (.carriedOut .complete)).Carries .configureLine (hostOp 10 3 []) (.carriedOut .complete) ∧
    (working idle3 (hostOp 11 3 []) (.carriedOut .complete)).Carries .configureClass (hostOp 11 3 []) (.carriedOut .complete) ∧
    (working idle3 (hostOp 9 3 []) (.adjusting 1)).Carries .setTime (hostOp 9 3 []) (.adjusting 1) ∧
    (working idle3 (hostOp 9 3 []) .started).Carries .setTime (hostOp 9 3 []) .started :=
  ⟨⟨rfl, rfl, rfl⟩, ⟨rfl, rfl, rfl⟩, by decide, Nat.le_refl 64, rfl, by simp, by simp, by simp, ⟨rfl, rfl, rfl⟩, ⟨rfl, rfl, rfl⟩, ⟨rfl, rfl, rfl⟩,
    ⟨rfl, rfl, rfl⟩⟩
theorem witness_WorkNotInHandChangesNothing_query :
    ∀ n op e, (working State.reset (hostOp 5 3 []) .started).Carries n op .started → op.Names e →
      ¬ (n = .define ∧ ((working State.reset (hostOp 5 3 []) .started).entry e).timing ≠ .armed ∨
        n = .release ∧ ((working State.reset (hostOp 5 3 []) .started).entry e).timing = .idle ∨ n = .readState) := by
  rintro n op e ⟨h1, h2, -⟩ -
  cases h1
  have hn : n = .arm := by
    have : OpName.ofCode 5 = some .arm := by decide
    exact Option.some.inj (h2.symm.trans this)
  subst hn
  simp

/-! ### Arms, cancels and the other operations -/

theorem witness_InsertionKeepsDueOrder :
    ([3, 8, 12] : List EntryNo).Pairwise fun a b => (fun e : EntryNo => if e = 12 then (100 : Int) else 40) a ≤
      (fun e : EntryNo => if e = 12 then (100 : Int) else 40) b := by decide
theorem witness_ArmResults :
    let op := hostOp 5 3 []
    let s := working idle3 op .started
    s.Live ∧ s.Carries .arm op .started ∧ op.Names 3 ∧ (s.entry 3).timing ≠ .free ∧ (hostOp 5 64 []).NamesNone ∧
    ((working State.reset op .started).entry 3).timing = .free :=
  ⟨rfl, ⟨rfl, rfl, rfl⟩, rfl, by decide, Nat.le_refl 64, rfl⟩
theorem witness_ArmAtResults :
    let op := hostOp 6 3 [1]
    let s := working idle3 op .started
    s.Live ∧ s.Carries .armAt op .started ∧ op.Names 3 ∧ (s.entry 3).timing ≠ .free ∧
    1 ≤ signedDiff (op.image[3] ++ op.image[2] ++ op.image[1] ++ op.image[0]) s.time.count ∧
    signedDiff 0 s.time.count ≤ 0 ∧ (hostOp 6 64 []).NamesNone := by
  refine ⟨rfl, ⟨rfl, rfl, rfl⟩, rfl, ?_, ?_, ?_, Nat.le_refl 64⟩
  · decide
  · decide
  · decide
theorem witness_OperationsCarriedOutOnlyComplete :
    (working State.reset (hostOp 5 0 []) (.carriedOut .complete)).Carries .arm (hostOp 5 0 []) (.carriedOut .complete) ∧
    (working State.reset (hostOp 6 0 []) (.carriedOut .pastDue)).Carries .armAt (hostOp 6 0 []) (.carriedOut .pastDue) ∧
    (working State.reset (hostOp 7 0 []) (.carriedOut .noEffect)).Carries .cancel (hostOp 7 0 []) (.carriedOut .noEffect) ∧
    (working State.reset (hostOp 8 0 []) (.carriedOut .complete)).Carries .clearClass (hostOp 8 0 []) (.carriedOut .complete) ∧
    (working State.reset (hostOp 10 0 []) (.carriedOut .complete)).Carries .configureLine (hostOp 10 0 [])
      (.carriedOut .complete) ∧
    (working State.reset (hostOp 11 0 [7]) (.carriedOut .complete)).Carries .configureClass (hostOp 11 0 [7])
      (.carriedOut .complete) :=
  ⟨⟨rfl, rfl, rfl⟩, ⟨rfl, rfl, rfl⟩, ⟨rfl, rfl, rfl⟩, ⟨rfl, rfl, rfl⟩, ⟨rfl, rfl, rfl⟩, ⟨rfl, rfl, rfl⟩⟩
theorem witness_CancelResults :
    let op := hostOp 7 3 [1]
    (working armed3 op .started).Live ∧ (working armed3 op .started).Carries .cancel op .started ∧ op.Names 3 ∧
    ((working armed3 op .started).entry 3).timing ≠ .free ∧
    (hostOp 7 64 []).NamesNone ∧ ((working State.reset op .started).entry 3).timing = .free :=
  ⟨rfl, ⟨rfl, rfl, rfl⟩, rfl, by decide, Nat.le_refl 64, rfl⟩
theorem witness_ClearClassResults :
    let op := hostOp 8 0 [7]
    let s := working armed3 op .started
    s.Live ∧ s.Carries .clearClass op .started ∧ op.image[0].toNat = (7 : ClassNo).val ∧ s.lc.dueList.Nodup ∧
    8 ≤ (hostOp 8 0 [8]).image[0].toNat :=
  ⟨rfl, ⟨rfl, rfl, rfl⟩, by decide, by decide, by decide⟩
theorem witness_SetTimeStartShiftsAndLoads :
    let op := hostOp 9 0 [0, 1]
    let s := working armed3 op .started
    s.Live ∧ s.Carries .setTime op .started := ⟨rfl, ⟨rfl, rfl, rfl⟩⟩
theorem witness_SetTimeWalkShiftsTheDueList :
    let op := hostOp 9 0 [0, 1]
    let s := working armed3 op (.adjusting 256)
    s.Live ∧ s.Carries .setTime op (.adjusting 256) ∧ s.lc.dueList.Nodup := ⟨rfl, ⟨rfl, rfl, rfl⟩, by decide⟩
theorem witness_ConfigureLineResults :
    let ok := hostOp 10 0 [3, 0x07, 3, 255]
    let bad (op : HostOp) := 4 ≤ op.image[0].toNat ∨ 8 ≤ op.image[1].toNat ∨
      (64 ≤ op.image[2].toNat ∧ op.image[2].toNat ≠ 255)
    (working idle3 ok .started).Live ∧ (working idle3 ok .started).Carries .configureLine ok .started ∧ ¬ bad ok ∧
    ok.image[0].toNat = (3 : InLine).val ∧
    (∀ x : EntryNo, ok.image[2].toNat = x.val → ((working idle3 ok .started).entry x).timing ≠ .free) ∧
    (∃ x : EntryNo, ok.image[2].toNat = x.val ∧ ((working State.reset ok .started).entry x).timing = .free) ∧
    bad (hostOp 10 0 [4]) ∧ bad (hostOp 10 0 [3, 8]) ∧ bad (hostOp 10 0 [3, 7, 64]) ∧ bad (hostOp 10 0 [3, 7, 254]) := by
  refine ⟨rfl, ⟨rfl, rfl, rfl⟩, by decide, by decide, ?_, ⟨3, by decide, by decide⟩, ?_⟩
  · intro x hx
    have : x = 3 := Fin.ext (hx.symm.trans (by decide))
    subst this
    decide
  · decide
theorem witness_ConfigureClassResults :
    let op := hostOp 11 0 [7, 0xFF, 0xFF]
    let s := working State.reset op .started
    s.Live ∧ s.Carries .configureClass op .started ∧ op.image[0].toNat = (7 : ClassNo).val ∧
    8 ≤ (hostOp 11 0 [8]).image[0].toNat := ⟨rfl, ⟨rfl, rfl, rfl⟩, by decide, by decide⟩

/-! ### Due processing and latches -/

theorem witness_ListControllerTickOwesARun :
    State.reset.link.ticksToList = 0 ∧ (handed State.reset 1).link.ticksToList = 0 + 1 := by decide
theorem witness_RunExpiresHeadsDueAtItsLimit :
    let run (s : State) (w : Option Word) : State := { s with lc := { s.lc with work := .run w } }
    (run State.reset none).lc.work = .run none ∧ (run State.reset none).lc.dueList = [] ∧
    (run armed3 none).lc.work = .run none ∧ (run armed3 none).lc.dueList = 3 :: [] ∧
    (run State.reset (some 7)).lc.work = .run (some 7) ∧ (run State.reset (some 7)).lc.dueList = [] ∧
    (run armed3 (some 7)).lc.work = .run (some 7) ∧ (run armed3 (some 7)).lc.dueList = 3 :: [] ∧
    isDue ((run armed3 (some 7)).dueOf 3) 7 = true ∧ isDue ((run armed3 (some 6)).dueOf 3) 6 = false := by decide
theorem witness_ExpiryEffect :
    let periodic : Definition := { defn with period := some 10, repeatLimit := 5, followOn := some 6 }
    periodic.period = some 10 ∧ 2 ≤ (2 : Half).toNat ∧ periodic.repeatLimit ≠ 0 ∧ (1 : Half).toNat < 2 ∧
    periodic.followOn = some 6 ∧ defn.period = none ∧ defn.followOn = none := by decide
theorem witness_TriggerArmServesTheLatch :
    let cfg : LineConfig := { LineConfig.reset with trigger := some 3 }
    let s := latched (withLine idle3 2 cfg 0) 2 (some 6)
    let t := latched (withLine (withEntry (atCount 11) 3 (idle defn)) 2 cfg 0) 2 (some 6)
    s.Live ∧ s.lc.work = .latch 2 ∧ s.lc.latches[(2 : InLine)] = some 6 ∧ (s.line.ins[(2 : InLine)]).cfg.trigger = some 3 ∧
    (s.entry 3).timing = .idle ∧ isDue (6 + (s.entry 3).defn.delay) s.time.count = false ∧
    isDue (6 + (t.entry 3).defn.delay) t.time.count = true ∧
    ((withEntry s 3 (armed defn 7)).entry 3).timing = .armed ∧ ((withEntry s 3 (armed defn 7)).entry 3).defn.policy = .keep ∧
    (latched State.reset 2 (some 6)).line.ins[(2 : InLine)].cfg.trigger = none := by
  refine ⟨rfl, ?_⟩
  decide

/-! ### Dispatch unit -/

theorem witness_PostRequestTakenByFirstCase :
    let p := post 3 none
    let inPool (s : State) := ∃ r ∈ s.du.pool, r.entry = p.entry
    let inHeld (s : State) := ∃ r ∈ s.du.held, r.entry = p.entry
    inPool (waiting [event 3 3] [] []) ∧
    (¬ inPool (waiting fullPool [event 40 3] []) ∨ inHeld (waiting fullPool [event 3 3] [])) ∧
    (¬ inPool (waiting (fullPool.drop 4) [] []) ∧ ¬ inHeld (waiting (fullPool.drop 4) [] []) ∧
      (waiting (fullPool.drop 4) [] []).du.pool.length < 32) ∧
    (waiting fullPool [] []).du.pool.length = 32 ∧ ¬ ∃ r ∈ fullPool, r.entry = (post 32 none).entry := by decide
theorem witness_PostRequestTakenByFirstCase_held :
    (¬ ∃ r ∈ (waiting fullPool [event 33 3] []).du.pool, r.entry = (post 33 none).entry) ∧
    ∃ r ∈ (waiting fullPool [event 33 3] []).du.held, r.entry = (post 33 none).entry := by decide
theorem witness_PostRequestTakenByFirstCase_queue :
    (issued [] []).link.posts = [] ∧ (issued [post 3 none] []).link.posts = post 3 none :: [] ∧
    (issued [post 3 (some 7)] [.set 1, .pulse 7 3]).link.actions = [.set 1] ++ .pulse 7 3 :: [] ∧
    (∀ a ∈ ([.set 1] : List ActionReq), a.pulse? = none) ∧ (post 3 (some 7)).pulseLine = some 7 := by decide
theorem witness_PresenceQueryAnswersFromTheState :
    let op := hostOp 1 3 []
    let s := working State.reset op .started
    s.Live ∧ s.Carries .define op .started ∧ op.Names 3 ∧ (s.entry 3).timing ≠ .armed ∧
    (working idle3 (hostOp 2 3 []) .started).Carries .release (hostOp 2 3 []) .started ∧
    ((working idle3 (hostOp 2 3 []) .started).entry 3).timing = .idle ∧
    (working idle3 (hostOp 4 3 []) .started).Carries .readState (hostOp 4 3 []) .started :=
  ⟨rfl, ⟨rfl, rfl, rfl⟩, rfl, by decide, ⟨rfl, rfl, rfl⟩, by decide, ⟨rfl, rfl, rfl⟩⟩

/-- A full pool, a held queue and a stack meet the bounds. -/
theorem queueLaw_full : QueueLaw (waiting fullPool [event 40 6] [service 50 2, service 51 5]) where
  pool_bound := by decide
  held_only_when_full := by decide
  stack_bound := by decide
  stack_order := by decide
  captures_bound := by decide
  miss_bound := by decide
  held_bound := by decide

theorem witness_CancelAndClearRequestsWithdraw :
    let s := waiting fullPool [event 40 6] [service 50 2, service 51 5]
    QueueLaw s ∧ s.WaitingOnce := ⟨queueLaw_full, by unfold State.WaitingOnce; decide⟩
theorem witness_CancelAndClearRequestsWithdraw_rows :
    let op := hostOp 7 3 [1]
    (working armed3 op .started).Live ∧ (working armed3 op .started).Carries .cancel op .started ∧ op.Names 3 ∧
    ((working armed3 op .started).entry 3).timing ≠ .free ∧
    (working armed3 (hostOp 8 0 [7]) .started).Carries .clearClass (hostOp 8 0 [7]) .started ∧
    (hostOp 8 0 [7]).image[0].toNat = (7 : ClassNo).val :=
  ⟨rfl, ⟨rfl, rfl, rfl⟩, rfl, by decide, ⟨rfl, rfl, rfl⟩, by decide⟩
theorem witness_DispatchTickAgesAndTimes :
    State.reset.link.ticksToDispatch = 0 ∧ (handed State.reset 1).link.ticksToDispatch = 0 + 1 := by decide
theorem witness_StaleRecordsAreWithdrawnInOrder :
    let s := tickOwed (waiting ({ event 50 1 with staleLimit := 2 } :: fullPool.drop 1) [{ event 40 6 with staleLimit := 2 }] [])
    s.Live ∧ s.du.staleOwed = true ∧ QueueLaw s ∧ s.WaitingOnce ∧ State.reset.du.staleOwed = false :=
  ⟨rfl, rfl, ⟨by decide, by decide, by decide, by decide, by decide, by decide, by decide⟩, by unfold State.WaitingOnce; decide, rfl⟩
theorem witness_ServiceLimitMarksOverruns :
    (tickOwed (waiting [] [] [service 2 2])).du.overrunOwed = true ∧ State.reset.du.overrunOwed = false := by decide
theorem witness_TickIsTakenWhole : (issued [post 3 none] []).Live ∧ (issued [post 3 none] []).link.posts ≠ [] :=
  ⟨rfl, by decide⟩
theorem witness_EligibilityDrivesTheLinesAndStatus :
    (waiting [event 3 4] [] [service 2 5]).eligible 4 = true ∧ (waiting [event 3 5] [] [service 2 5]).eligible 5 = false := by
  decide
theorem witness_AcknowledgeTakesTheFirstOfThreeCases :
    let four := waiting [] [] [service 1 1, service 2 2, service 3 3, service 4 4]
    let s := waiting fullPool [event 40 6] [service 50 7]
    State.reset.hardwareReset.win.resetAsserted = true ∧
    exec .acknowledge State.reset = .next (after .acknowledge State.reset) ∧
    4 ≤ four.du.stack.length ∧ State.reset.Live ∧ State.reset.du.stack.length < 4 ∧
    (∀ c, State.reset.finishTick.eligible c = false) ∧
    s.finishTick.eligible 6 = true ∧ (∀ d : ClassNo, d < 6 → s.finishTick.eligible d = false) ∧
    (s.finishTick.du.pool.filter fun x => x.cls = 6) = event 0 6 :: fullPool.tail ∧ s.finishTick.du.pool.length ≤ 32 ∧
    (s.finishTick.du.held ≠ [] → s.finishTick.du.pool.length = 32) :=
  ⟨rfl, rfl, by decide, rfl, by decide, by decide, by decide, by decide, by decide, by decide, by decide⟩
theorem witness_DonePopsTheTopOrIsRefused :
    let s := waiting [] [] [{ service 63 2 with pulseLine := some 7 }, service 51 5]
    exec (.done 63) s = .next (after (.done 63) s) ∧ s.Live ∧ s.finishTick.du.stack = { service 63 2 with pulseLine := some 7 } :: [service 51 5] ∧
    (63#8).toNat = (63 : EntryNo).val ∧ (51#8).toNat ≠ (63 : EntryNo).val ∧
    ¬ ((∃ r ∈ s.finishTick.du.pool ++ s.finishTick.du.held, r.entry = (63 : EntryNo)) ∨
      ∃ r ∈ [service 51 5], r.entry = (63 : EntryNo)) ∧ State.reset.finishTick.du.stack = [] ∧
    (service 51 5).pulseLine = none := by
  refine ⟨rfl, rfl, ?_⟩
  decide

/-! ### Line unit, resets, logs -/

theorem witness_ActionRequestsMoveTheLines :
    (issued [] []).link.actions = [] ∧ (issued [] [.clear 7]).link.actions = .clear 7 :: [] ∧
    (ActionReq.clear 7).pulse? = none ∧ (issued [post 2 none, post 3 (some 7)] [.pulse 7 3]).link.actions = .pulse 7 3 :: [] ∧
    (issued [post 2 none, post 3 (some 7)] [.pulse 7 3]).link.posts = [post 2 none] ++ post 3 (some 7) :: [] ∧
    (∀ x ∈ [post 2 none], x.pulseLine = none) ∧ (post 3 (some 7)).pulseLine ≠ none := by decide
theorem witness_InputChangesAndHoldOff :
    let s := withLine State.reset 3 { edgeSelect := .rising, captureOn := true, trigger := some 3, holdOff := 255 } 0
    let blind := withLine State.reset 3 { edgeSelect := .rising, captureOn := true, trigger := some 3, holdOff := 255 } 1
    s.Live ∧ (s.line.ins[(3 : InLine)]).lastLevel = false ∧ (s.line.ins[(3 : InLine)]).lastLevel ≠ true ∧
    (s.line.ins[(3 : InLine)]).cfg.edgeSelect = .rising ∧ (s.line.ins[(3 : InLine)]).counter = 0 ∧
    (blind.line.ins[(3 : InLine)]).counter ≠ 0 ∧ State.reset.link.ticksToLine = 0 ∧
    (handed State.reset 1).link.ticksToLine = 0 + 1 := by
  refine ⟨rfl, ?_⟩
  decide
theorem witness_ClearAllEmptiesFourBlocks : State.reset.Live ∧ (0x02#8).getLsbD 1 = true ∧ (0xFF#8).getLsbD 1 = true :=
  ⟨rfl, by decide, by decide⟩
theorem witness_ViewsShowTheirLayouts :
    let r : CaptureRecord := { line := 3, edge := .falling, count := 1, phase := 2 }
    (waiting [] [] [service 50 2]).du.stack = service 50 2 :: [] ∧ State.reset.du.stack = [] ∧
    (waiting [] [] [service 50 2]).du.stack.reverse[(0 : Fin 4).val]? = some (service 50 2) ∧
    (waiting [] [] [service 50 2]).du.stack.length ≤ (1 : Fin 4).val ∧ State.reset.line.captures = [] ∧
    ({ State.reset.line with captures := [r] } : LineUnit).captures = r :: [] ∧ State.reset.alert.missLog = [] ∧
    ({ State.reset.alert with missLog := [(event 1 1).miss .withdrawn] } : AlertUnit).missLog
      = (event 1 1).miss .withdrawn :: [] := by decide
theorem witness_HardwareResetValues :
    State.reset.hardwareReset.win.resetAsserted = true ∧ State.reset.Live ∧
    (∀ n : InLine, (State.reset.line.ins[n]).pin = false) := ⟨rfl, rfl, by decide⟩

/-- The machine after reset with one command waiting. -/
def one : State := { State.reset with pending := [.runStart] }

theorem one_entry (e : EntryNo) : one.entry e = .free := by
  simp [one, State.entry, State.reset, ListController.reset]

theorem one_step : step one = .next (after .runStart State.reset) := rfl

theorem one_due : DueLaw one where
  once := by decide
  exactly_armed e := by
    have : e ∉ one.lc.dueList := List.not_mem_nil
    simp [this, one_entry, Entry.free]
  due_iff_armed e := by simp [one_entry, Entry.free]
  remaining_zero e _ := by simp [one_entry, Entry.free]
  free_cleared e _ := one_entry e

theorem one_definitions : DefinitionLaw one := fun e h => absurd (by simp [one_entry, Entry.free]) h

theorem one_references : ReferenceLaw one where
  follow_on e _ h := absurd (by simp [one_entry, Entry.free]) h
  trigger := by
    intro n x h
    have hn : ∀ n, one.trigger n = none := by decide
    cases (hn n).symm.trans h

theorem one_controller : ControllerLaw one where
  rest_nothing_waits := by decide
  run_is_owed h := by cases h
  latch_is_full _ h := by cases h
  operation_in_slot _ h := by cases h
  phase_fits _ _ h := by cases h

theorem one_queues : QueueLaw one := ⟨by decide, by decide, by decide, by decide, by decide, by decide, by decide⟩

theorem witness_QueuesKeepTheirBounds :
    (QueueLaw one ∧ one.WaitingOnce) ∧ step one = .next (after .runStart State.reset) :=
  ⟨⟨one_queues, by unfold State.WaitingOnce; decide⟩, one_step⟩
theorem witness_ListControllerKeepsItsLaws :
    (DueLaw one ∧ DefinitionLaw one ∧ ReferenceLaw one ∧ ControllerLaw one) ∧ step one = .next (after .runStart State.reset) :=
  ⟨⟨one_due, one_definitions, one_references, one_controller⟩, one_step⟩

/-- Entry 3 ARMED as late as a due member may stand, and one command waiting. -/
def lateOne : State := { withEntry (atCount 0x7FFFFFFF) 3 (armed defn 0) with pending := [.runStart], lc := { (withEntry (atCount 0x7FFFFFFF) 3 (armed defn 0)).lc with owed := true, work := .run none } }

theorem lateOne_entry (e : EntryNo) : lateOne.entry e = if e = 3 then armed defn 0 else .free := by
  have h (n : Nat) (hn : n < 64) : (ListController.reset.entries)[n] = Entry.free := by simp [ListController.reset]
  by_cases he : e = 3
  · subst he
    rfl
  · have : (3 : EntryNo).val ≠ e.val := fun hv => he (Fin.ext hv.symm)
    simp only [lateOne, State.entry, withEntry, atCount, State.reset, if_neg he, Fin.getElem_fin]
    rw [Vector.getElem_set_ne _ _ this]
    exact h _ _

theorem witness_InsertionKeepsDueOrder_step :
    DueLaw lateOne ∧ ControllerLaw lateOne ∧ lateOne.DueOrder ∧
    (∀ e ∈ lateOne.lc.dueList, -2 ^ 31 < lateOne.distanceOf e) ∧
    step lateOne = .next (after .runStart { lateOne with pending := [] }) := by
  have hl : lateOne.lc.dueList = [3] := rfl
  refine ⟨⟨by decide, fun e => ?_, fun e => ?_, fun e => ?_, fun e => ?_⟩, ⟨by decide, by decide, by decide, fun _ h => ?_,
    fun _ _ h => ?_⟩, ?_, ?_, rfl⟩
  · rw [lateOne_entry, hl]
    by_cases he : e = 3 <;> simp [he, armed, Entry.free]
  · rw [lateOne_entry]
    by_cases he : e = 3 <;> simp [he, armed, Entry.free]
  · rw [lateOne_entry]
    by_cases he : e = 3 <;> simp [he, armed, Entry.free]
  · rw [lateOne_entry]
    by_cases he : e = 3 <;> simp [he, armed, Entry.free]
  · cases h
  · cases h
  · rw [State.DueOrder, hl]
    exact List.pairwise_singleton _ _
  · rw [hl]
    decide
theorem witness_EveryStepKeepsTheMachineLaw : MachineLaw one ∧ step one = .next (after .runStart State.reset) where
  left :=
    { phase := by unfold PhaseLaw; decide
      queues := one_queues
      due := one_due
      definitions := one_definitions
      references := one_references
      records :=
        { waiting_once := by decide
          service_once := by decide
          waiting_matches := fun _ h => absurd h List.not_mem_nil
          service_matches := fun _ h => absurd h List.not_mem_nil
          posts_match := fun _ h => absurd h List.not_mem_nil
          pulses_paired := rfl
          answer_posts := fun _ h => by cases h
          answer_holds := fun _ _ _ h => by cases h }
      holders :=
        { canonical := by decide
          has_record := fun l e h => by
            have hl : ∀ l : OutLine, (one.line.outs[l]).holders = [] := by decide
            exact absurd (hl l ▸ h) List.not_mem_nil }
      remaining := fun e h => absurd h (by simp [one_entry, Entry.free])
      controller := one_controller
      reset := fun h => by cases h }
  right := one_step
theorem witness_LogsAreHistory :
    exec (.popMiss 0x19) State.reset = .next (after (.popMiss 0x19) State.reset) ∧ (0x19#8).getLsbD 1 = false ∧
    State.reset.Live := ⟨rfl, by decide, rfl⟩

end Sys2Proof.Tests
end

namespace Sys2Proof.Machine.ListOperations

/-! # Host operations of the list controller

The proofs of the statements about the operation slot, the arbiter, CLEAR CLASS, SET TIME, CONFIGURE LINE and CONFIGURE
CLASS. The first sections say once how the shared parts behave: the arbiter's choice, the rows of the work in hand, and
the walks over the due list. -/

/-! ## The meaning of each row

Stated once by `rfl`, so that no proof below unfolds the whole table of commands. -/

theorem exec_row_operation (code : Byte) (s : State) : exec (.operation code) s = execOperation code s := rfl
theorem exec_row_arm (span : Span) (s : State) : exec (.arm span) s = execArm span s := rfl
theorem exec_row_armAt (span : Span) (s : State) : exec (.armAt span) s = execArmAt span s := rfl
theorem exec_row_define (s : State) : exec .define s = execDefine s := rfl
theorem exec_row_release (s : State) : exec .release s = execRelease s := rfl
theorem exec_row_readDefinition (s : State) : exec .readDefinition s = execReadDefinition s := rfl
theorem exec_row_readState (s : State) : exec .readState s = execReadState s := rfl
theorem exec_row_cancel (s : State) : exec .cancel s = execCancel s := rfl
theorem exec_row_clearClass (s : State) : exec .clearClass s = execClearClass s := rfl
theorem exec_row_setTime (s : State) : exec .setTime s = execSetTime s := rfl
theorem exec_row_setTimeWalkCompletion (s : State) : exec .setTimeWalkCompletion s = execSetTimeWalkCompletion s := rfl
theorem exec_row_configureLine (s : State) : exec .configureLine s = execConfigureLine s := rfl
theorem exec_row_configureClass (s : State) : exec .configureClass s = execConfigureClass s := rfl
theorem exec_row_unknownOperation (s : State) : exec .unknownOperation s = execUnknownOperation s := rfl
theorem exec_row_dueProcessingRun (s : State) : exec .dueProcessingRun s = execDueProcessingRun s := rfl
theorem exec_row_triggerArm (s : State) : exec .triggerArm s = execTriggerArm s := rfl
theorem exec_row_cancelRequest (s : State) : exec .cancelRequest s = execCancelRequest s := rfl
theorem exec_row_clearRequest (s : State) : exec .clearRequest s = execClearRequest s := rfl
theorem exec_row_presenceQuery (s : State) : exec .presenceQuery s = execPresenceQuery s := rfl
theorem exec_row_serviceLimitReplacement (s : State) :
    exec .serviceLimitReplacement s = execServiceLimitReplacement s := rfl
theorem exec_row_lineConfiguration (s : State) : exec .lineConfiguration s = execLineConfiguration s := rfl
theorem exec_row_runNextExpiry (s : State) : exec .runNextExpiry s = execRunNextExpiry s := rfl

/-! ## The arbiter's choice (R60) -/

/-- The first full latch in line order is the one the arbiter finds. -/
theorem fullLatch_of_first {c : ListController} {n : InLine} (hn : (c.latches[n]).isSome)
    (hfirst : ∀ m : InLine, m < n → c.latches[m] = none) : c.fullLatch = some n := by
  have in_order : ∀ k : InLine, allInLines = allInLines.take k ++ k :: allInLines.drop (k + 1) ∧
      ∀ m ∈ allInLines.take k, m < k := by decide
  obtain ⟨hsplit, hbefore⟩ := in_order n
  exact List.find?_eq_some_iff_append.2
    ⟨hn, _, _, hsplit, fun m hm => by simp [hfirst m (hbefore m hm)]⟩

/-- The arbiter finds no latch when none is full. -/
theorem fullLatch_of_empty {c : ListController} (h : ∀ n : InLine, c.latches[n] = none) : c.fullLatch = none :=
  List.find?_eq_none.2 fun n _ => by simp [h n]

theorem choose_of_owed {c : ListController} (h : c.owed = true) : c.choose = .run none := by
  simp [ListController.choose, h]

theorem choose_of_fullLatch {c : ListController} {n : InLine} (ho : c.owed = false) (hl : c.fullLatch = some n) :
    c.choose = .latch n := by
  simp [ListController.choose, ho, hl]

theorem choose_of_no_latch {c : ListController} (ho : c.owed = false) (hl : c.fullLatch = none) :
    c.choose = if c.slot.isSome then .operation .started else .rest := by
  simp [ListController.choose, ho, hl]

/-- With an empty slot the arbiter takes no operation. -/
theorem choose_ne_operation {c : ListController} (h : c.slot = none) (ph : OpPhase) : c.choose ≠ .operation ph := by
  rcases c.choose_cases with ⟨_, hw⟩ | ⟨_, _, _, hw⟩ | ⟨_, _, hs, _⟩ | ⟨_, _, _, hw⟩
  · simp [hw]
  · simp [hw]
  · simp [h] at hs
  · simp [hw]

/-- The arbiter takes a run that has still to start. -/
theorem choose_ne_run_under_way (c : ListController) (limit : Word) : c.choose ≠ .run (some limit) := by
  rcases c.choose_cases with ⟨_, hw⟩ | ⟨_, _, _, hw⟩ | ⟨_, _, _, hw⟩ | ⟨_, _, _, hw⟩ <;> simp [hw]

/-- Settles O17: the four branches of the arbiter's choice. -/
theorem arbiterOrderIsFixed : Obligations.ArbiterOrderIsFixed := fun _ =>
  ⟨choose_of_owed, fun ho _ hn hfirst => choose_of_fullLatch ho (fullLatch_of_first hn hfirst),
    fun ho hnone => choose_of_no_latch ho (fullLatch_of_empty hnone)⟩

/-! ## The slot: an accepted write, and a completion (R62, R64, R66) -/

/-- A wake changes the work in hand alone, and that of a controller at rest only. -/
theorem wake_eq_setWork (s : State) :
    s.wake = s.setWork (if s.lc.work = .rest then s.lc.choose else s.lc.work) := by
  unfold State.wake
  split <;> rfl

/-- The list controller with an accepted OPERATION write in its slot. -/
def filledSlot (s : State) (code : Byte) : ListController :=
  { s.lc with slot := some { code := code, image := s.win.staging, entrySelect := s.win.entrySelect } }

/-- An empty slot takes the written operation, and a controller at rest chooses again. -/
theorem writeOperation_of_empty {s : State} (code : Byte) (h : s.lc.slot = none) :
    s.writeOperation code = { s with lc := { filledSlot s code with
      work := if s.lc.work = .rest then (filledSlot s code).choose else s.lc.work } } := by
  simp only [State.writeOperation, h, wake_eq_setWork]
  rfl

/-- Settles O16: an empty slot is filled and the controller woken; a full one refuses. -/
theorem operationWriteFillsTheSlotOrCollides : Obligations.OperationWriteFillsTheSlotOrCollides := by
  intro s code hlive
  rw [exec_row_operation, execOperation, live_eq hlive]
  constructor
  · intro hslot
    refine ⟨_, congrArg _ (writeOperation_of_empty code hslot), fun hwork => if_neg hwork, fun hrest howed hnone => ?_⟩
    rw [if_pos hrest]
    exact choose_of_no_latch howed (fullLatch_of_empty (c := filledSlot s code) hnone)
  · intro op hslot
    simp only [State.writeOperation, hslot]

/-- The list controller with a result latched and its slot empty. -/
def emptiedSlot (s : State) (r : Result) : ListController := { s.lc with opResult := r, slot := none }

/-- A completion empties the slot with its result, sets the cause, and the arbiter chooses. -/
theorem complete_eq (s : State) (r : Result) : s.complete r = { s with
    lc := { emptiedSlot s r with work := (emptiedSlot s r).choose }
    alert := { s.alert with causes := withCause s.alert.causes .opComplete } } := rfl

/-- A completion leaves no operation in hand. -/
theorem complete_work_ne_operation (s : State) (r : Result) (ph : OpPhase) : (s.complete r).lc.work ≠ .operation ph := by
  rw [complete_eq]
  exact choose_ne_operation rfl ph

/-- ADJUSTING is clear after a completion (R73). -/
theorem complete_not_adjusting (s : State) (r : Result) : (s.complete r).adjusting = false := by
  unfold State.adjusting
  split
  · next d hw => exact absurd hw (complete_work_ne_operation s r _)
  · rfl

/-- Settles O18: the completion is one change of the slot, the result, the cause and the work, and the work is the
arbiter's choice. -/
theorem completionLatchesResultAndEmptiesSlot : Obligations.CompletionLatchesResultAndEmptiesSlot := fun s r =>
  ⟨(emptiedSlot s r).choose, complete_eq s r, choose_of_owed (c := emptiedSlot s r), choose_ne_operation rfl,
    fun ho _ hn hfirst => choose_of_fullLatch ho (fullLatch_of_first hn hfirst),
    fun ho hnone => choose_of_no_latch (c := emptiedSlot s r) ho (fullLatch_of_empty hnone)⟩

/-! ## Rows of the work in hand -/

/-- A row of the operation in progress has its effect. -/
theorem liveWork_carries {s : State} {n : OpName} {op : HostOp} {ph : OpPhase} (hlive : s.Live)
    (hc : s.Carries n op ph) (f : State → HostOp → OpPhase → State) :
    liveWork s (fun t => t.onOperation n (f t)) = .next (f s op ph) := by
  obtain ⟨-, -, hwork⟩ := id hc
  rw [liveWork_eq hlive, State.settle_operation hwork, onOperation_carries hc]

/-- A row of an operation that is not in progress changes nothing, when the work in hand has more left than its end. -/
theorem liveWork_other {s : State} {n : OpName} (hlive : s.Live) (hend : s.atEnd = false)
    (h : ∀ op ph, ¬ s.Carries n op ph) (f : State → HostOp → OpPhase → State) :
    liveWork s (fun t => t.onOperation n (f t)) = .next s := by
  rw [liveWork_eq hlive, State.settle_not hend, onOperation_other h]

/-- A row acts on what the arbiter chooses, when the work in hand has only to end. -/
theorem liveWork_atEnd {s : State} (hlive : s.Live) (hend : s.atEnd = true) (f : State → State) :
    liveWork s f = liveWork s.endWork f := by
  have hlive' : s.endWork.Live := hlive
  rw [liveWork_eq hlive, liveWork_eq hlive', State.settle_atEnd hend, State.settle_not s.endWork_atEnd]

section
variable {s : State} {op : HostOp} {ph : OpPhase}

theorem exec_clearClass (hlive : s.Live) (hc : s.Carries .clearClass op ph) :
    exec .clearClass s = .next (s.doClearClass op ph) := liveWork_carries hlive hc State.doClearClass

theorem exec_setTime_started (hlive : s.Live) (hc : s.Carries .setTime op .started) :
    exec .setTime s = .next (s.doSetTime op) :=
  liveWork_carries hlive hc fun t op ph => if ph = .started then t.doSetTime op else t

theorem exec_setTime_later (hlive : s.Live) (hc : s.Carries .setTime op ph) (h : ph ≠ .started) :
    exec .setTime s = .next s :=
  (liveWork_carries hlive hc fun t op ph => if ph = .started then t.doSetTime op else t).trans
    (congrArg _ (if_neg h))

theorem exec_setTimeWalkCompletion (hlive : s.Live) (hc : s.Carries .setTime op ph) :
    exec .setTimeWalkCompletion s = .next (s.doWalkCompletion ph) :=
  liveWork_carries hlive hc fun t _ ph => t.doWalkCompletion ph

theorem exec_configureLine (hlive : s.Live) (hc : s.Carries .configureLine op ph) :
    exec .configureLine s = .next (s.doConfigureLine op ph) := liveWork_carries hlive hc State.doConfigureLine

theorem exec_configureClass (hlive : s.Live) (hc : s.Carries .configureClass op ph) :
    exec .configureClass s = .next (s.doConfigureClass op ph) := liveWork_carries hlive hc State.doConfigureClass

/-- The cancel request comes once, and after the checks of CANCEL. -/
theorem exec_cancelRequest_idle (hlive : s.Live) (hc : s.Carries .cancel op ph)
    (h : ph = .started → s.checkDefined op ≠ .complete) : exec .cancelRequest s = .next s := by
  rw [exec_row_cancelRequest, execCancelRequest, liveWork_carries hlive hc]
  split
  · next hcheck _ => exact absurd hcheck (h rfl)
  · rfl

/-- The clear request comes once, and for a class that the image names. -/
theorem exec_clearRequest_idle (hlive : s.Live) (hc : s.Carries .clearClass op ph)
    (h : ph = .started → op.class? = none) : exec .clearRequest s = .next s := by
  rw [exec_row_clearRequest, execClearRequest, liveWork_carries hlive hc]
  split
  · next hclass => exact absurd hclass (by simp [h rfl])
  · rfl

/-- The line unit takes the configuration once, and after the checks of CONFIGURE LINE. -/
theorem exec_lineConfiguration_idle (hlive : s.Live) (hc : s.Carries .configureLine op ph)
    (h : ph = .started → s.checkConfigureLine op ≠ .complete) : exec .lineConfiguration s = .next s := by
  rw [exec_row_lineConfiguration, execLineConfiguration, liveWork_carries hlive hc]
  split
  · next hcheck => exact absurd hcheck (h rfl)
  · rfl

theorem exec_lineConfiguration_sends (hlive : s.Live) (hc : s.Carries .configureLine op .started)
    (h : s.checkConfigureLine op = .complete) :
    exec .lineConfiguration s = .next ((s.sendLineConfig op).setWork (.operation (.carriedOut .complete))) := by
  rw [exec_row_lineConfiguration, execLineConfiguration, liveWork_carries hlive hc]
  simp only [h]

/-- The dispatch unit takes the service limit once, and for a class that the image names. -/
theorem exec_serviceLimitReplacement_idle (hlive : s.Live) (hc : s.Carries .configureClass op ph)
    (h : ph = .started → op.class? = none) : exec .serviceLimitReplacement s = .next s := by
  rw [exec_row_serviceLimitReplacement, execServiceLimitReplacement, liveWork_carries hlive hc]
  split
  · next hclass => exact absurd hclass (by simp [h rfl])
  · rfl

theorem exec_serviceLimitReplacement_sends {c : ClassNo} (hlive : s.Live) (hc : s.Carries .configureClass op .started)
    (h : op.class? = some c) :
    exec .serviceLimitReplacement s =
      .next ((s.takeLimit c op.limit).setWork (.operation (.carriedOut .complete))) := by
  rw [exec_row_serviceLimitReplacement, execServiceLimitReplacement, liveWork_carries hlive hc]
  simp only [h]

end

/-- Settles O19: the row completes the operation of an unknown code, and finds none to complete otherwise. -/
theorem unknownOperationOnlyCompletes : Obligations.UnknownOperationOnlyCompletes := by
  intro s hlive
  rw [exec_row_unknownOperation, execUnknownOperation, liveWork_eq hlive]
  constructor
  · intro op ph hslot hwork hcode
    simp only [State.settle_operation hwork, hslot, hwork, hcode, if_true]
  · intro hend hknown
    rw [State.settle_not hend]
    split
    · next op ph hslot hwork => rw [if_neg (hknown op ph hslot hwork)]
    · rfl

/-! ## Walks over the due list (R69, R73) -/

/-- The entry table after a walk that changes the record of each listed entry by `g`. -/
def walkTable (g : Entry → Entry) (l : List EntryNo) (entries : Vector Entry 64) : Vector Entry 64 :=
  l.foldl (fun v (e : EntryNo) => v.set e (g v[e])) entries

/-- A walk over a list without repeats changes each listed record once and no other. -/
theorem getElem_walkTable (g : Entry → Entry) {l : List EntryNo} (hl : l.Nodup) (entries : Vector Entry 64)
    (f : EntryNo) : (walkTable g l entries)[f] = if f ∈ l then g entries[f] else entries[f] := by
  induction l generalizing entries with
  | nil => simp [walkTable]
  | cons e l ih =>
    obtain ⟨he, hl⟩ := List.nodup_cons.1 hl
    have hstep : walkTable g (e :: l) entries = walkTable g l (entries.set e (g entries[e])) := rfl
    rw [hstep, ih hl]
    by_cases hfe : f = e
    · subst hfe
      simp [he]
    · have hval : e.val ≠ f.val := fun h => hfe (Fin.ext h.symm)
      simp [hfe, hval]

/-- The record of an entry that has left the due list (R37). -/
def disarmed (en : Entry) : Entry := { en with timing := .idle, due := none, remaining := 0 }

/-- Removals one after another are one walk of the table, and the list without the entries removed (R37). -/
theorem foldl_removeDue (l : List EntryNo) (s : State) :
    l.foldl State.removeDue s = s.withList
      (walkTable disarmed l s.lc.entries)
      (s.lc.dueList.diff l) := by
  induction l generalizing s with
  | nil => rfl
  | cons e l ih =>
    rw [List.foldl_cons, ih, List.diff_cons]
    rfl

/-- The walk of CLEAR CLASS: the members of the class leave, the others keep their places (R69). -/
theorem clearWalk_eq (s : State) (c : ClassNo) (hl : s.lc.dueList.Nodup) :
    s.clearWalk c = s.withList
      (walkTable disarmed (s.lc.dueList.filter fun e => (s.entry e).defn.cls == c) s.lc.entries)
      (s.lc.dueList.filter fun e => (s.entry e).defn.cls != c) := by
  have hdiff : s.lc.dueList.diff (s.lc.dueList.filter fun e => (s.entry e).defn.cls == c) =
      s.lc.dueList.filter fun e => (s.entry e).defn.cls != c := by
    rw [hl.sdiff_eq_filter]
    exact List.filter_congr fun e he => by simp [he, bne, beq_eq_decide]
  rw [State.clearWalk, foldl_removeDue, hdiff]

/-- Settles O27: the checks of CLEAR CLASS, and its walk as one change of the table and the list. -/
theorem clearClassResults : Obligations.ClearClassResults := by
  intro s op hlive hc
  rw [exec_clearClass hlive hc]
  constructor
  · intro hbad
    simp only [State.doClearClass, HostOp.class?_none hbad]
  · intro c hclass hnodup
    refine ⟨walkTable disarmed (s.lc.dueList.filter fun e => (s.entry e).defn.cls == c) s.lc.entries, fun e => ?_, ?_⟩
    · rw [getElem_walkTable disarmed (hnodup.filter _)]
      simp only [List.mem_filter, beq_iff_eq]
      rfl
    · simp only [State.doClearClass, HostOp.class?_some hclass, State.carryClear, clearWalk_eq s c hnodup]

/-- The shifts of single members, one after another, are one walk of the table. -/
theorem foldl_shift (d : Word) (l : List EntryNo) (s : State) :
    l.foldl (fun t e => t.setEntry e ((t.entry e).shift d)) s =
      s.withList (walkTable (Entry.shift d) l s.lc.entries) s.lc.dueList := by
  induction l generalizing s with
  | nil => rfl
  | cons e l ih =>
    rw [List.foldl_cons, ih]
    rfl

/-- The walk of SET TIME keeps the due list (R73). -/
theorem shiftWalk_eq (s : State) (d : Word) :
    s.shiftWalk d = s.withList (walkTable (Entry.shift d) s.lc.dueList s.lc.entries) s.lc.dueList :=
  foldl_shift d s.lc.dueList s

/-- Settles O29: the walk as one change of the table, and the completion after it. -/
theorem setTimeWalkShiftsTheDueList : Obligations.SetTimeWalkShiftsTheDueList := by
  intro s op d hlive hc hnodup
  refine ⟨walkTable (Entry.shift d) s.lc.dueList s.lc.entries, fun e => ?_, ?_, complete_not_adjusting _ _⟩
  · exact getElem_walkTable (Entry.shift d) hnodup s.lc.entries e
  · rw [exec_setTimeWalkCompletion hlive hc, ← shiftWalk_eq]
    rfl

/-! ## The start of SET TIME (R71) -/

/-- Settles O28: the posts taken first leave the count and the latches, so the shift is reckoned from the count that
stands. -/
theorem setTimeStartShiftsAndLoads : Obligations.SetTimeStartShiftsAndLoads := by
  intro s op hlive hc
  dsimp only
  rw [exec_setTime_started hlive hc]
  simp only [State.doSetTime, State.load, State.takeAllPosts_time, State.takeAllPosts_lc, mapAll_eq_map]
  rfl

/-! ## CONFIGURE LINE (R75, R143, R170) -/

/-- A byte names an entry exactly when it is its number. -/
theorem entryOf_eq_some_iff (b : Byte) (x : EntryNo) : entryOf b = some x ↔ b.toNat = x.val := by
  unfold entryOf
  split
  · simp [Fin.ext_iff]
  · next h => simp only [reduceCtorEq, false_iff]; omega

/-- A byte names no entry exactly when it is 64 or more. -/
theorem entryOf_eq_none_iff (b : Byte) : entryOf b = none ↔ 64 ≤ b.toNat := by
  simp [entryOf]

/-- The upper five bits of a byte are 0 exactly when it is below 8. -/
theorem upperFive_eq_zero_iff (b : Byte) : b.extractLsb' 3 5 = 0 ↔ b.toNat < 8 := by
  rw [← BitVec.toNat_inj, BitVec.extractLsb'_toNat, Nat.shiftRight_eq_div_pow]
  have := b.isLt
  simp only [BitVec.ofNat_eq_ofNat, BitVec.toNat_ofNat]
  omega

/-- The image of a CONFIGURE LINE fails the check of form: the line, the zero bits or the trigger is out of range. -/
def BadLine (op : HostOp) : Prop :=
  4 ≤ op.image[0].toNat ∨ 8 ≤ op.image[1].toNat ∨ (64 ≤ op.image[2].toNat ∧ op.image[2].toNat ≠ 255)

/-- The four values that a CONFIGURE LINE image spells. -/
def lineFields (op : HostOp) : LineConfig :=
  { edgeSelect := edgeSelectOf (op.image[1].extractLsb' 0 2)
    captureOn := op.image[1].getLsbD 2
    trigger := entryOf op.image[2]
    holdOff := op.image[3] }

/-- The zero bits and the trigger of the layout are as the model checks them. -/
theorem lineForm_iff (op : HostOp) :
    (op.image[1].extractLsb' 3 5 = 0 ∧ ((entryOf op.image[2]).isSome ∨ op.image[2] = 0xFF)) ↔
      op.image[1].toNat < 8 ∧ (op.image[2].toNat < 64 ∨ op.image[2].toNat = 255) := by
  have habsent : op.image[2] = 0xFF ↔ op.image[2].toNat = 255 := BitVec.toNat_inj.symm
  have htrigger : (entryOf op.image[2]).isSome ↔ op.image[2].toNat < 64 := by
    rw [Option.isSome_iff_ne_none, ne_eq, entryOf_eq_none_iff, not_le]
  rw [upperFive_eq_zero_iff, htrigger, habsent]

theorem lineConfig?_of_bad {op : HostOp} (h : BadLine op) : op.lineConfig? = none := by
  unfold HostOp.lineConfig?
  split
  · rfl
  · next n hn =>
    have hline : op.image[0].toNat < 4 := by
      by_contra hge
      simp [inLineOf, hge] at hn
    refine if_neg fun hform => ?_
    have := (lineForm_iff op).1 hform
    unfold BadLine at h
    omega

theorem lineConfig?_of_ok {op : HostOp} {n : InLine} (hn : op.image[0].toNat = n.val) (h : ¬ BadLine op) :
    op.lineConfig? = some (n, lineFields op) := by
  have hline : inLineOf op.image[0] = some n := by
    unfold inLineOf
    rw [dif_pos (by omega)]
    exact congrArg some (Fin.ext hn)
  have hform := (lineForm_iff op).2 (by unfold BadLine at h; omega)
  simp only [HostOp.lineConfig?, hline]
  rw [if_pos hform]
  rfl

/-- A good image names a line. -/
theorem exists_line_of_ok {op : HostOp} (h : ¬ BadLine op) : ∃ n : InLine, op.image[0].toNat = n.val :=
  ⟨⟨op.image[0].toNat, by unfold BadLine at h; omega⟩, rfl⟩

theorem checkConfigureLine_of_bad (s : State) {op : HostOp} (h : BadLine op) : s.checkConfigureLine op = .badField := by
  simp only [State.checkConfigureLine, lineConfig?_of_bad h]

theorem checkConfigureLine_of_free {s : State} {op : HostOp} (h : ¬ BadLine op) {x : EntryNo}
    (hx : op.image[2].toNat = x.val) (hfree : (s.entry x).timing = .free) :
    s.checkConfigureLine op = .linkToFree := by
  obtain ⟨n, hn⟩ := exists_line_of_ok h
  have htrigger : (lineFields op).trigger = some x := (entryOf_eq_some_iff _ x).2 hx
  simp only [State.checkConfigureLine, lineConfig?_of_ok hn h, htrigger, if_pos hfree]

theorem checkConfigureLine_of_ok {s : State} {op : HostOp} (h : ¬ BadLine op)
    (hdef : ∀ x : EntryNo, op.image[2].toNat = x.val → (s.entry x).timing ≠ .free) :
    s.checkConfigureLine op = .complete := by
  obtain ⟨n, hn⟩ := exists_line_of_ok h
  simp only [State.checkConfigureLine, lineConfig?_of_ok hn h]
  cases htrigger : (lineFields op).trigger with
  | none => rfl
  | some x => exact if_neg (hdef x ((entryOf_eq_some_iff _ x).1 htrigger))

/-- CONFIGURE LINE ends with the result of a check that fails. -/
theorem doConfigureLine_refused {s : State} {op : HostOp} (h : s.checkConfigureLine op ≠ .complete) :
    s.doConfigureLine op .started = s.complete (s.checkConfigureLine op) := by
  simp only [State.doConfigureLine]

theorem doConfigureLine_done {s : State} {op : HostOp} (h : s.checkConfigureLine op = .complete) :
    s.doConfigureLine op .started = (s.sendLineConfig op).complete .complete := by
  simp only [State.doConfigureLine, h]

/-- The edge select by the two low bits of the byte. -/
theorem edgeSelectOf_low_bits (b : Byte) : edgeSelectOf (b.extractLsb' 0 2) =
    match b.toNat % 4 with | 0 => .none | 1 => .rising | 2 => .falling | _ => .both := by
  have hbits : (b.extractLsb' 0 2).toNat = b.toNat % 4 := by simp [BitVec.extractLsb'_toNat]
  simp only [edgeSelectOf, hbits] <;> rfl

/-- Settles O30: the two checks, each with both rows, and the configuration that the image spells. -/
theorem configureLineResults : Obligations.ConfigureLineResults := by
  intro s op hlive hc
  have refused (r : Result) (hr : s.checkConfigureLine op = r) (hne : r ≠ .complete) :
      exec .configureLine s = .next (s.complete r) ∧ exec .lineConfiguration s = .next s := by
    subst hr
    rw [exec_configureLine hlive hc, doConfigureLine_refused hne]
    exact ⟨rfl, exec_lineConfiguration_idle hlive hc fun _ => hne⟩
  refine ⟨fun hbad => ?_, fun hok ⟨x, hx, hfree⟩ => ?_, fun n hn hok hdef => ?_⟩
  · exact refused .badField (checkConfigureLine_of_bad s hbad) (by decide)
  · exact refused .linkToFree (checkConfigureLine_of_free hok hx hfree) (by decide)
  · have hcheck := checkConfigureLine_of_ok (s := s) hok hdef
    have hsend : s.sendLineConfig op = s.takeLineConfig n (lineFields op) := by
      simp only [State.sendLineConfig, lineConfig?_of_ok hn hok]
    refine ⟨lineFields op, edgeSelectOf_low_bits _, rfl, rfl, fun x => entryOf_eq_some_iff _ x, ?_, ?_⟩
    · rw [exec_configureLine hlive hc, doConfigureLine_done hcheck, hsend]
      rfl
    · rw [exec_lineConfiguration_sends hlive hc hcheck, hsend]
      rfl

/-! ## CONFIGURE CLASS (R76, R116) -/

/-- Settles O32: both rows refuse a class of 8 to 255, and replace the limit of the class named otherwise. -/
theorem configureClassResults : Obligations.ConfigureClassResults := by
  intro s op hlive hc
  rw [exec_configureClass hlive hc]
  constructor
  · intro hbad
    have hclass := HostOp.class?_none hbad
    refine ⟨?_, exec_serviceLimitReplacement_idle hlive hc fun _ => hclass⟩
    simp only [State.doConfigureClass, hclass]
  · intro c hbyte
    have hclass := HostOp.class?_some hbyte
    refine ⟨?_, (exec_serviceLimitReplacement_sends hlive hc hclass).trans rfl⟩
    simp only [State.doConfigureClass, hclass]
    rfl

/-! ## Work that is not in hand (log entries 5, 10, 13) -/

/-- The rows of the controller's work and of the requests of the work in hand, but RUN_NEXT_EXPIRY. -/
def workRows : List Instr :=
  [.define, .release, .readDefinition, .readState, .arm .whole, .arm .carryOut, .armAt .whole, .armAt .carryOut, .cancel,
    .clearClass, .setTime, .setTimeWalkCompletion, .configureLine, .configureClass, .unknownOperation, .dueProcessingRun,
    .triggerArm, .cancelRequest, .clearRequest, .presenceQuery, .serviceLimitReplacement, .lineConfiguration]

/-- Each of them is one change made after the end of a piece of work that has only to end. -/
theorem exec_workRows {c : Instr} (hc : c ∈ workRows) : ∃ f, ∀ s, exec c s = liveWork s f := by
  simp only [workRows, List.mem_cons, List.not_mem_nil, or_false] at hc
  rcases hc with rfl | rfl | rfl | rfl | rfl | rfl | rfl | rfl | rfl | rfl | rfl | rfl | rfl | rfl | rfl | rfl | rfl |
    rfl | rfl | rfl | rfl | rfl
  exacts [⟨_, exec_row_define⟩, ⟨_, exec_row_release⟩, ⟨_, exec_row_readDefinition⟩, ⟨_, exec_row_readState⟩,
    ⟨_, exec_row_arm .whole⟩, ⟨_, exec_row_arm .carryOut⟩, ⟨_, exec_row_armAt .whole⟩,
    ⟨_, exec_row_armAt .carryOut⟩, ⟨_, exec_row_cancel⟩, ⟨_, exec_row_clearClass⟩, ⟨_, exec_row_setTime⟩,
    ⟨_, exec_row_setTimeWalkCompletion⟩, ⟨_, exec_row_configureLine⟩, ⟨_, exec_row_configureClass⟩,
    ⟨_, exec_row_unknownOperation⟩, ⟨_, exec_row_dueProcessingRun⟩, ⟨_, exec_row_triggerArm⟩,
    ⟨_, exec_row_cancelRequest⟩, ⟨_, exec_row_clearRequest⟩, ⟨_, exec_row_presenceQuery⟩,
    ⟨_, exec_row_serviceLimitReplacement⟩, ⟨_, exec_row_lineConfiguration⟩]

/-- A run has no head due at its limit when the list is empty or its head is not due. -/
theorem dueHead_eq_none_iff (s : State) (limit : Word) :
    s.dueHead limit = none ↔ ∀ e l, s.lc.dueList = e :: l → isDue (s.dueOf e) limit = false := by
  unfold State.dueHead
  cases s.lc.dueList with
  | nil => simp
  | cons f l =>
    rw [ite_eq_right_iff]
    constructor
    · rintro h _ _ ⟨⟩
      exact Bool.eq_false_iff.2 fun hdue => nomatch h hdue
    · intro h hdue
      simp [h f l rfl] at hdue

/-- A piece of work that has only to end ends with RUN_NEXT_EXPIRY. -/
theorem exec_runNextExpiry_atEnd {s : State} (hlive : s.Live) (hend : s.atEnd = true) :
    exec .runNextExpiry s = .next s.endWork := by
  rw [exec_row_runNextExpiry, execRunNextExpiry, liveWork_eq hlive, State.settle_atEnd hend]
  split
  · next limit hw => exact absurd hw (choose_ne_run_under_way s.lc limit)
  · rfl

/-- The checks of CANCEL refuse an entry select that names no entry, or a FREE one. -/
theorem checkDefined_ne_complete {s : State} {op : HostOp}
    (h : op.NamesNone ∨ ∃ e, op.Names e ∧ (s.entry e).timing = .free) : s.checkDefined op ≠ .complete := by
  rcases h with hnone | ⟨e, hname, hfree⟩
  · simp [State.checkDefined, HostOp.entry?_none hnone]
  · simp [State.checkDefined, HostOp.entry?_some hname, hfree]

/-- The operations that ask for the presence of entry e, which stand at that point of their checks (R25, R29, R32). -/
def Asks (s : State) (n : OpName) (e : EntryNo) : Prop :=
  n = .define ∧ (s.entry e).timing ≠ .armed ∨ n = .release ∧ (s.entry e).timing = .idle ∨ n = .readState

/-- A presence query has a target only for an operation that asks for one. -/
theorem queryTarget_asks {s : State} {e : EntryNo} (h : s.queryTarget = some e) :
    ∃ n op, s.Carries n op .started ∧ op.Names e ∧ Asks s n e := by
  unfold State.queryTarget at h
  split at h
  · next op hslot hwork =>
    have names {x : EntryNo} (hx : op.entry? = some x) : op.Names x := (entryOf_eq_some_iff _ x).1 hx
    split at h
    · next x hcode hx =>
      obtain ⟨harmed, rfl⟩ := (Option.ite_none_left_eq_some.1 h).imp id Option.some.inj
      exact ⟨.define, op, ⟨hslot, hcode, hwork⟩, names hx, .inl ⟨rfl, harmed⟩⟩
    · next x hcode hx =>
      obtain ⟨hidle, rfl⟩ := (Option.ite_none_right_eq_some.1 h).imp id Option.some.inj
      exact ⟨.release, op, ⟨hslot, hcode, hwork⟩, names hx, .inr (.inl ⟨rfl, hidle⟩)⟩
    · next x hcode hx =>
      obtain rfl := Option.some.inj h
      exact ⟨.readState, op, ⟨hslot, hcode, hwork⟩, names hx, .inr (.inr rfl)⟩
    · cases h
  · cases h

section
variable {s : State} (hlive : s.Live) (hend : s.atEnd = false)
include hlive hend

/-- A presence query with no operation that asks changes nothing. -/
theorem exec_presenceQuery_idle
    (h : ∀ n op e, s.Carries n op .started → op.Names e → ¬ Asks s n e) : exec .presenceQuery s = .next s := by
  rw [exec_row_presenceQuery, execPresenceQuery, liveWork_eq hlive, State.settle_not hend]
  split
  · next e he =>
    obtain ⟨n, op, hc, hname, hasks⟩ := queryTarget_asks he
    exact absurd hasks (h n op e hc hname)
  · rfl

/-- No run starts unless one has been taken. -/
theorem exec_dueProcessingRun_idle (h : s.lc.work ≠ .run none) : exec .dueProcessingRun s = .next s := by
  rw [exec_row_dueProcessingRun, execDueProcessingRun, liveWork_eq hlive, State.settle_not hend, if_neg h]

/-- No run goes on unless one is under way. -/
theorem exec_runNextExpiry_idle (h : ∀ limit, s.lc.work ≠ .run (some limit)) : exec .runNextExpiry s = .next s := by
  rw [exec_row_runNextExpiry, execRunNextExpiry, liveWork_eq hlive, State.settle_not hend]
  split
  · next limit hw => exact absurd hw (h limit)
  · rfl

/-- No latch is served unless one has been taken. -/
theorem exec_triggerArm_idle (h : ∀ n, s.lc.work ≠ .latch n) : exec .triggerArm s = .next s := by
  rw [exec_row_triggerArm, execTriggerArm, liveWork_eq hlive, State.settle_not hend]
  split
  · next n hw => exact absurd hw (h n)
  · rfl

end

/-- Outside its walk a SET TIME has no walk to complete. -/
theorem doWalkCompletion_of_not_adjusting (s : State) {ph : OpPhase} (h : ∀ d, ph ≠ .adjusting d) :
    s.doWalkCompletion ph = s := by
  cases ph with
  | adjusting d => exact absurd rfl (h d)
  | started => rfl
  | presence p => rfl
  | carriedOut r => rfl

/-- Settles O21: the end of a piece of work comes first, and then each row by what it waits for. -/
theorem workNotInHandChangesNothing : Obligations.WorkNotInHandChangesNothing := by
  intro s hlive
  refine ⟨?_, fun hend => ⟨exec_runNextExpiry_atEnd hlive hend, fun c hc => ?_⟩, fun hend =>
    ⟨fun n hn => ?_, fun op ph hc h => ?_, fun op ph hc h => ?_, fun op ph hc h => ?_, fun op ph hc h => ?_,
      fun op ph hc h => exec_setTime_later hlive hc h, fun op ph hc h => ?_, exec_presenceQuery_idle hlive hend,
      exec_dueProcessingRun_idle hlive hend, exec_runNextExpiry_idle hlive hend, exec_triggerArm_idle hlive hend⟩⟩
  · rw [State.atEnd_iff, or_comm]
    simp only [dueHead_eq_none_iff]
  · obtain ⟨f, hf⟩ := exec_workRows (c := c) hc
    rw [hf, hf, liveWork_atEnd hlive hend]
  · have idle (f : State → HostOp → OpPhase → State) : liveWork s (fun t => t.onOperation n (f t)) = .next s :=
      liveWork_other hlive hend hn f
    cases n with
    | define => simp only [exec_row_define, execDefine, idle]
    | release => simp only [exec_row_release, execRelease, idle]
    | readDefinition => simp only [exec_row_readDefinition, execReadDefinition, idle]
    | readState => simp only [exec_row_readState, execReadState, idle]
    | arm => simp only [exec_row_arm, execArm, idle, implies_true]
    | armAt => simp only [exec_row_armAt, execArmAt, idle, implies_true]
    | cancel => simp only [exec_row_cancel, execCancel, exec_row_cancelRequest, execCancelRequest, idle, and_self]
    | clearClass =>
      simp only [exec_row_clearClass, execClearClass, exec_row_clearRequest, execClearRequest,
        idle, and_self]
    | setTime =>
      simp only [exec_row_setTime, execSetTime, exec_row_setTimeWalkCompletion, execSetTimeWalkCompletion,
        idle, and_self]
    | configureLine =>
      simp only [exec_row_configureLine, execConfigureLine, exec_row_lineConfiguration, execLineConfiguration,
        idle, and_self]
    | configureClass =>
      simp only [exec_row_configureClass, execConfigureClass, exec_row_serviceLimitReplacement, execServiceLimitReplacement,
        idle, and_self]
  · exact exec_cancelRequest_idle hlive hc fun hph => checkDefined_ne_complete (h.resolve_left (not_not.2 hph))
  · exact exec_clearRequest_idle hlive hc fun hph => HostOp.class?_none (h.resolve_left (not_not.2 hph))
  · exact exec_lineConfiguration_idle hlive hc fun hph => absurd hph h
  · exact exec_serviceLimitReplacement_idle hlive hc fun hph => absurd hph h
  · rw [exec_setTimeWalkCompletion hlive hc, doWalkCompletion_of_not_adjusting s h]

end Sys2Proof.Machine.ListOperations

namespace Sys2Proof.Machine.EventPool

open ListOperations

/-! # Event pool, class lists and the held queue

The statements about the dispatch unit's waiting records: post, cancel and clear requests, the presence query, the tick,
eligibility, the plain registers, and the bounds of the queues. -/

/-! ## The next state of a command -/

/-- The state that a command leaves. -/
def effect (c : Instr) (s : State) : State :=
  match exec c s with
  | .next t => t
  | .fault r => nomatch r
  | .refused _ => s

/-- The change f, held off while RESET* is asserted. -/
def whenLive (f : State → State) (s : State) : State := if s.win.resetAsserted then s else f s

/-- Every command leaves a next state. -/
theorem exec_effect (c : Instr) (s : State) : exec c s = .next (effect c s) := by
  cases c <;> rfl

/-- A command that RESET* holds off leaves its change, or nothing. -/
theorem effect_of_live {c : Instr} {f : State → State} (h : ∀ s, exec c s = live s f) : effect c = whenLive f := by
  funext s
  rw [effect, h]
  rfl

/-- A row of the controller's work comes after the end of the piece before it. -/
theorem effect_of_work {c : Instr} {f : State → State} (h : ∀ s, exec c s = liveWork s f) :
    effect c = whenLive fun s => f s.settle := effect_of_live h

/-- A step takes the command at the front of the queue, or finds none. -/
theorem step_cases {s t : State} (h : step s = .next t) :
    t = s ∨ ∃ c rest, t = effect c { s with pending := rest } := by
  unfold step at h
  split at h
  · exact .inl (Host.Outcome.next.inj h).symm
  · next c rest _ =>
    rw [exec_effect] at h
    exact .inr ⟨c, rest, (Host.Outcome.next.inj h).symm⟩

/-! ## The capture queue

Only a recognized edge, a pop and the resets touch it. -/

@[simp] theorem setOut_captures (s : State) (l : OutLine) (o : OutputLine) :
    (s.setOut l o).line.captures = s.line.captures := rfl
@[simp] theorem releaseHolder_captures (s : State) (l : OutLine) (e : EntryNo) :
    (s.releaseHolder l e).line.captures = s.line.captures := rfl
@[simp] theorem perform_captures (s : State) (a : ActionReq) : (s.perform a).line.captures = s.line.captures := by
  cases a <;> rfl
@[simp] theorem performAll_captures (s : State) (as : List ActionReq) :
    (s.performAll as).line.captures = s.line.captures :=
  foldl_frame _ (·.line.captures) (fun s a => perform_captures s a) _ _
@[simp] theorem releaseAfter_captures (s : State) (e : EntryNo) (l : Option OutLine) :
    (s.releaseAfter e l).line.captures = s.line.captures := by
  rcases s.releaseAfter_cases e l with ⟨_, h⟩ | ⟨_, _, _, h⟩ <;> simp [h]
@[simp] theorem takePulse_captures (s : State) : s.takePulse.line.captures = s.line.captures :=
  performAll_captures s _
@[simp] theorem setIn_captures (s : State) (n : InLine) (i : InputLine) :
    (s.setIn n i).line.captures = s.line.captures := rfl
@[simp] theorem sendLineConfig_captures (s : State) (op : HostOp) :
    (s.sendLineConfig op).line.captures = s.line.captures := by
  unfold State.sendLineConfig
  split <;> rfl

/-! ## The bounds, part by part (R78, R80, R82, R84, R101, R139, R149) -/

/-- The pool and the held queue: the pool has 32 slots, a record is held only while none is free, and no entry has two
waiting records. -/
structure WaitingLaw (pool held : List Record) : Prop where
  bound : pool.length ≤ Config.poolSlots
  full : held ≠ [] → pool.length = Config.poolSlots
  once : ((pool ++ held).map Record.entry).Nodup

/-- The in-service stack: at most 4 records, in strictly decreasing classes from the bottom up. -/
structure StackLaw (stack : List ServiceRecord) : Prop where
  bound : stack.length ≤ Config.stackDepth
  order : stack.Pairwise fun upper lower => upper.cls < lower.cls

/-- The bounds of all the queues. -/
structure Bounds (s : State) : Prop where
  waiting : WaitingLaw s.du.pool s.du.held
  stack : StackLaw s.du.stack
  captures : s.line.captures.length ≤ Config.captureQueueSize
  misses : s.alert.missLog.length ≤ Config.missLogSize

/-- The held queue is bounded because no two waiting records are of one entry, of which there are 64. -/
theorem WaitingLaw.held_bound {pool held : List Record} (h : WaitingLaw pool held) :
    held.length ≤ Config.poolSlots := by
  have hcard := h.once.length_le_card
  simp only [List.length_map, List.length_append, Fintype.card_fin] at hcard
  by_cases hnil : held = []
  · simp [hnil]
  · have hfull := h.full hnil
    simp only [Config.poolSlots] at *
    omega

theorem bounds_iff (s : State) : Bounds s ↔ QueueLaw s ∧ s.WaitingOnce :=
  ⟨fun ⟨hw, hs, hc, hm⟩ => ⟨⟨hw.bound, hw.held_bound, hw.full, hs.bound, hs.order, hc, hm⟩, hw.once⟩,
    fun ⟨hq, ho⟩ => ⟨⟨hq.pool_bound, hq.held_only_when_full, ho⟩, ⟨hq.stack_bound, hq.stack_order⟩, hq.captures_bound,
      hq.miss_bound⟩⟩

/-- A change of records that keeps the entry of each. -/
theorem map_entry (g : Record → Record) (hg : ∀ r, (g r).entry = r.entry) (rs : List Record) :
    (rs.map g).map Record.entry = rs.map Record.entry := by
  simp [hg]

namespace WaitingLaw

variable {pool held : List Record}

/-- Changes of records that keep their number and entries. -/
theorem of_entries {pool' held' : List Record} (h : WaitingLaw pool held)
    (hp : pool'.map Record.entry = pool.map Record.entry) (hh : held'.map Record.entry = held.map Record.entry) :
    WaitingLaw pool' held' := by
  have hpl : pool'.length = pool.length := by simpa using congrArg List.length hp
  have hhl : held'.length = held.length := by simpa using congrArg List.length hh
  refine ⟨hpl ▸ h.bound, fun hne => hpl ▸ h.full fun hnil => hne ?_, ?_⟩
  · simpa [hnil] using hhl
  · rw [List.map_append, hp, hh, ← List.map_append]
    exact h.once

/-- A record joins the pool, when a slot is free. -/
theorem join (h : WaitingLaw pool held) {r : Record} (hlen : pool.length < Config.poolSlots)
    (hp : ∀ x ∈ pool, x.entry ≠ r.entry) (hh : ∀ x ∈ held, x.entry ≠ r.entry) : WaitingLaw (pool ++ [r]) held := by
  have hnil : held = [] := by_contra fun hne => hlen.ne (h.full hne)
  subst hnil
  have honce := h.once
  simp only [List.append_nil] at honce
  refine ⟨by simpa using hlen, fun hne => absurd rfl hne, ?_⟩
  simp only [List.append_nil, List.map_append, List.map_cons, List.map_nil]
  refine List.nodup_append.2 ⟨honce, List.nodup_singleton _, ?_⟩
  simp only [List.mem_map, List.mem_singleton]
  rintro _ ⟨x, hx, rfl⟩ _ rfl
  exact hp x hx

/-- A record is held, when no slot is free. -/
theorem hold (h : WaitingLaw pool held) {r : Record} (hlen : ¬ pool.length < Config.poolSlots)
    (hp : ∀ x ∈ pool, x.entry ≠ r.entry) (hh : ∀ x ∈ held, x.entry ≠ r.entry) : WaitingLaw pool (held ++ [r]) := by
  refine ⟨h.bound, fun _ => h.bound.antisymm (not_lt.1 hlen), ?_⟩
  rw [← List.append_assoc, List.map_append]
  refine List.nodup_append.2 ⟨h.once, List.nodup_singleton _, ?_⟩
  simp only [List.map_append, List.mem_append, List.mem_map, List.map_cons, List.map_nil, List.mem_singleton]
  rintro _ (⟨x, hx, rfl⟩ | ⟨x, hx, rfl⟩) _ rfl
  · exact hp x hx
  · exact hh x hx

/-- Held records leave. -/
theorem of_held_sublist {held' : List Record} (h : WaitingLaw pool held) (hs : held'.Sublist held) :
    WaitingLaw pool held' :=
  ⟨h.bound, fun hne => h.full fun hnil => hne (List.sublist_nil.1 (hnil ▸ hs)),
    h.once.sublist ((hs.append_left pool).map _)⟩

/-- An event leaves the pool, and the freed slot goes to the held head (R84). -/
theorem refill (h : WaitingLaw pool held) {t : State} {r : Record} (hp : t.du.pool = pool.erase r)
    (hh : t.du.held = held) : WaitingLaw t.refill.du.pool t.refill.du.held := by
  have hle : (pool.erase r).length ≤ pool.length := List.length_erase_le
  have hge : pool.length - 1 ≤ (pool.erase r).length := List.le_length_erase
  have hbound := h.bound
  rcases t.refill_cases with ⟨heq, hcase⟩ | ⟨x, xs, hx, hlt, heq⟩
  · rw [heq, hp, hh]
    refine ⟨hle.trans hbound, fun hne => ?_, h.once.sublist (((List.erase_sublist).append_right held).map _)⟩
    rw [hp, hh] at hcase
    exact (hle.trans hbound).antisymm (hcase.resolve_left hne)
  · rw [heq]
    rw [hh] at hx
    subst hx
    have hfull := h.full (by simp)
    rw [hp] at hlt ⊢
    refine ⟨by simpa using hlt, fun _ => ?_, h.once.sublist ?_⟩
    · simp only [List.length_append, List.length_singleton, Config.poolSlots] at *
      omega
    · rw [List.append_assoc]
      exact ((List.erase_sublist).append_right (x :: xs)).map _

end WaitingLaw

/-- Changes of service records that keep their classes. -/
theorem StackLaw.map {stack : List ServiceRecord} (h : StackLaw stack) {g : ServiceRecord → ServiceRecord}
    (hg : ∀ r, (g r).cls = r.cls) : StackLaw (stack.map g) :=
  ⟨by simpa using h.bound, by simpa [List.pairwise_map, hg] using h.order⟩

/-- The top leaves the stack. -/
theorem StackLaw.tail {top : ServiceRecord} {rest : List ServiceRecord} (h : StackLaw (top :: rest)) : StackLaw rest :=
  ⟨(Nat.le_succ _).trans h.bound, h.order.of_cons⟩

/-- A record of a class below that of the top joins the stack. -/
theorem StackLaw.push {stack : List ServiceRecord} (h : StackLaw stack) {r : ServiceRecord}
    (hlen : stack.length < Config.stackDepth) (htop : ∀ top rest, stack = top :: rest → r.cls < top.cls) :
    StackLaw (r :: stack) := by
  refine ⟨hlen, List.pairwise_cons.2 ⟨fun x hx => ?_, h.order⟩⟩
  cases stack with
  | nil => cases hx
  | cons top rest =>
    have hr := htop top rest rfl
    rcases List.mem_cons.1 hx with rfl | hx
    · exact hr
    · exact hr.trans ((List.pairwise_cons.1 h.order).1 x hx)

/-! ## What keeps the bounds: the operations of the dispatch unit -/

/-- The bounds speak of the dispatch unit, the capture queue and the miss log alone. -/
theorem Bounds.congr {s t : State} (h : Bounds s) (hd : t.du = s.du) (hc : t.line.captures = s.line.captures)
    (hm : t.alert.missLog = s.alert.missLog) : Bounds t :=
  ⟨hd ▸ h.waiting, hd ▸ h.stack, hc ▸ h.captures, hm ▸ h.misses⟩

/-- A change keeps the bounds. -/
def Keeps (f : State → State) : Prop := ∀ s, Bounds s → Bounds (f s)

/-- One record more in the miss log, or none. -/
theorem logMiss_bound {s : State} (m : MissRecord) (h : s.alert.missLog.length ≤ Config.missLogSize) :
    (s.logMiss m).alert.missLog.length ≤ Config.missLogSize := by
  rcases s.logMiss_cases m with ⟨hlt, heq⟩ | ⟨_, heq⟩
  · simpa [heq] using hlt
  · rw [heq]
    exact h

namespace Bounds

variable {s : State}

theorem setLink (h : Bounds s) (k : Links) : Bounds { s with link := k } := h.congr rfl rfl rfl

theorem setWin (h : Bounds s) (w : Window) : Bounds { s with win := w } := h.congr rfl rfl rfl

theorem setCause (h : Bounds s) (c : Cause) : Bounds (s.setCause c) := h.congr rfl rfl rfl

theorem logMiss (h : Bounds s) (m : MissRecord) : Bounds (s.logMiss m) :=
  ⟨by simpa using h.waiting, by simpa using h.stack, by simpa using h.captures, logMiss_bound m h.misses⟩

theorem releaseAfter (h : Bounds s) (e : EntryNo) (l : Option OutLine) : Bounds (s.releaseAfter e l) :=
  h.congr (by simp) (by simp) (by simp)

theorem perform (h : Bounds s) (a : ActionReq) : Bounds (s.perform a) := h.congr (by simp) (by simp) (by simp)

theorem withdrawHeld (h : Bounds s) (reason : MissReason) (r : Record) : Bounds (s.withdrawHeld reason r) := by
  refine releaseAfter (logMiss ?_ _) _ _
  exact ⟨h.waiting.of_held_sublist List.erase_sublist, h.stack, h.captures, h.misses⟩

/-- An event leaves the pool, whatever else the event does to the stack and the miss log within their bounds. -/
theorem refill (h : Bounds s) {t : State} {r : Record} (hp : t.du.pool = s.du.pool.erase r) (hh : t.du.held = s.du.held)
    (hs : StackLaw t.du.stack) (hc : t.line.captures = s.line.captures)
    (hm : t.alert.missLog.length ≤ Config.missLogSize) : Bounds t.refill := by
  have hrest := t.refill_rest
  simp only [DispatchUnit.rest, Prod.mk.injEq] at hrest
  obtain ⟨hstack, -⟩ := hrest
  exact ⟨h.waiting.refill hp hh, hstack ▸ hs, by simpa [hc] using h.captures, by simpa using hm⟩

theorem withdrawEvent (h : Bounds s) (reason : MissReason) (r : Record) : Bounds (s.withdrawEvent reason r) :=
  h.refill (r := r) (by simp) (by simp) (by simpa using h.stack) (by simp)
    (by simpa using logMiss_bound (s := { s with du := { s.du with pool := s.du.pool.erase r } }) _ h.misses)

theorem foldl {α : Type} {f : State → α → State} (hf : ∀ s a, Bounds s → Bounds (f s a)) (h : Bounds s) (l : List α) :
    Bounds (l.foldl f s) := List.foldlRecOn l f h fun t ht a _ => hf t a ht

theorem withdrawStale (h : Bounds s) : Bounds s.withdrawStale := by
  have hheld : Bounds s.withdrawStaleHeld := h.foldl (fun _ r h => h.withdrawHeld .stale r) _
  have hall := hheld.foldl (f := State.withdrawStaleClass)
    (fun _ c h => h.foldl (fun _ r h => h.withdrawEvent .stale r) _) allClasses
  unfold State.withdrawStale
  dsimp only
  split
  · exact hall.setCause .stale
  · exact hall

theorem checkService (h : Bounds s) : Bounds s.checkService := by
  have hmark := h.stack.map (g := fun r => if r.overruns s.du.limits then { r with overrunFlag := true } else r)
    fun r => by split <;> rfl
  unfold State.checkService
  dsimp only
  split
  · refine setCause ?_ .serviceOverrun
    exact ⟨h.waiting, hmark, h.captures, h.misses⟩
  · exact ⟨h.waiting, hmark, h.captures, h.misses⟩

theorem finishStale (h : Bounds s) : Bounds s.finishStale := by
  unfold State.finishStale
  split
  · exact withdrawStale ⟨h.waiting, h.stack, h.captures, h.misses⟩
  · exact h

theorem finishOverrun (h : Bounds s) : Bounds s.finishOverrun := by
  unfold State.finishOverrun
  split
  · exact checkService ⟨h.waiting, h.stack, h.captures, h.misses⟩
  · exact h

theorem finishTick (h : Bounds s) : Bounds s.finishTick := h.finishStale.finishOverrun

theorem takeDispatchTick (h : Bounds s) : Bounds s.takeDispatchTick := by
  have ht := h.finishTick
  exact ⟨ht.waiting.of_entries (map_entry Record.older (fun _ => rfl) _) (map_entry Record.older (fun _ => rfl) _),
    ht.stack.map fun _ => rfl, ht.captures, ht.misses⟩

theorem postCase (h : Bounds s) (p : PostReq) : Bounds (s.postCase p) := by
  have none_of {rs : List Record} (hn : (rs.any fun r => r.entry == p.entry) = false) :
      ∀ x ∈ rs, x.entry ≠ p.record.entry := by simpa [PostReq.record] using hn
  rcases s.postCase_cases p with ⟨_, heq⟩ | ⟨_, _, heq⟩ | ⟨hp, hh, hlen, heq⟩ | ⟨hp, hh, hlen, heq⟩ <;> rw [heq]
  · exact ⟨h.waiting.of_entries (mergeInto_entries _ _) rfl, h.stack, h.captures, h.misses⟩
  · exact ⟨h.waiting.of_entries rfl (mergeInto_entries _ _), h.stack, h.captures, h.misses⟩
  · exact ⟨h.waiting.join hlen (none_of hp) (none_of hh), h.stack, h.captures, h.misses⟩
  · refine setCause ?_ .held
    exact ⟨h.waiting.hold hlen (none_of hp) (none_of hh), h.stack, h.captures, h.misses⟩

theorem takePost (h : Bounds s) (p : PostReq) : Bounds (s.takePost p) := by
  have hpulse : Bounds s.takePulse := h.congr (by simp) (by simp) (by simp)
  unfold State.takePost
  split
  · exact hpulse.postCase p
  · exact h.postCase p

theorem takeNextPost (h : Bounds s) : Bounds s.takeNextPost := by
  unfold State.takeNextPost
  split
  · exact h
  · exact (h.finishTick.setLink _).takePost _

theorem takeAllPosts (h : Bounds s) : Bounds s.takeAllPosts :=
  (h.finishTick.setLink _).foldl (fun _ p h => h.takePost p) _

theorem takeNextAction (h : Bounds s) : Bounds s.takeNextAction := by
  unfold State.takeNextAction
  split
  · exact h
  · exact ((h.finishTick.setLink _).foldl (fun _ p h => h.postCase p) _).perform _
  · exact (h.setLink _).perform _

theorem takeCancel (h : Bounds s) (e : EntryNo) (w : Bool) : Bounds (s.takeCancel e w) := by
  have hheld := h.foldl (fun _ r h => h.withdrawHeld .withdrawn r) (s.du.held.filter fun r => r.entry == e)
  unfold State.takeCancel
  dsimp only
  split
  · exact hheld.foldl (fun _ r h => h.withdrawEvent .withdrawn r) _
  · exact hheld

theorem takeClear (h : Bounds s) (c : ClassNo) : Bounds (s.takeClear c) :=
  (h.foldl (fun _ r h => h.withdrawHeld .withdrawn r) _).foldl (fun _ r h => h.withdrawEvent .withdrawn r) _

theorem shift (h : Bounds s) (d : Word) : Bounds { s with du := s.du.shift d } :=
  ⟨h.waiting.of_entries (map_entry (Record.shift d) (fun _ => rfl) _) (map_entry (Record.shift d) (fun _ => rfl) _),
    h.stack.map fun _ => rfl, h.captures, h.misses⟩

end Bounds

/-- An event that an acknowledge takes is of an eligible class. -/
theorem nextEvent_eligible {s : State} {r : Record} (h : s.nextEvent = some r) : s.eligible r.cls = true := by
  obtain ⟨c, hc, hr⟩ := Option.bind_eq_some_iff.1 h
  have hmem := List.mem_of_mem_head? hr
  simp only [State.classList, List.mem_filter, beq_iff_eq] at hmem
  exact hmem.2 ▸ List.find?_some hc

namespace Bounds

variable {s : State}

/-- An acknowledge pushes an event of a class below that of the top. -/
theorem serve (h : Bounds s) {r : Record} (hlen : ¬ Config.stackDepth ≤ s.du.stack.length)
    (hr : s.nextEvent = some r) : Bounds (s.serve r) := by
  refine h.refill (r := r) rfl rfl (h.stack.push (not_le.1 hlen) fun top rest htop => ?_) rfl h.misses
  have helig := nextEvent_eligible hr
  simp only [State.eligible, htop, Bool.and_eq_true, decide_eq_true_eq] at helig
  exact helig.2

theorem ackEffect (h : Bounds s) : Bounds s.ackEffect := by
  unfold State.ackEffect
  split
  · exact h
  · next hlen =>
    split
    · exact h
    · next r hr => exact h.serve hlen hr

theorem writeDone (h : Bounds s) (b : Byte) : Bounds (s.writeDone b) := by
  have ht := h.finishTick
  unfold State.writeDone
  dsimp only
  split
  · exact ht.setCause .deliveryError
  · next top rest hstack =>
    split
    · have hpop : StackLaw rest := by
        have hs := ht.stack
        rw [hstack] at hs
        exact hs.tail
      refine releaseAfter ?_ _ _
      exact ⟨ht.waiting, hpop, ht.captures, ht.misses⟩
    · exact ht.setCause .deliveryError

/-! ## What keeps the bounds: the other blocks -/

theorem complete (h : Bounds s) (r : Result) : Bounds (s.complete r) := h.congr rfl rfl rfl

theorem capture (h : Bounds s) (r : CaptureRecord) : Bounds (s.capture r) := by
  unfold State.capture
  dsimp only
  split
  · next hlt =>
    have hjoin : Bounds { s with line := { s.line with captures := s.line.captures ++ [r] } } :=
      ⟨h.waiting, h.stack, by simpa using hlt, h.misses⟩
    split
    · exact hjoin.setCause .captureReady
    · exact hjoin
  · exact h.setCause .captureLost

theorem setIn (h : Bounds s) (n : InLine) (i : InputLine) : Bounds (s.setIn n i) := h.congr rfl rfl rfl

theorem recognize (h : Bounds s) (n : InLine) (level : Bool) : Bounds (s.recognize n level) := by
  have arm {t : State} (ht : Bounds t) : Bounds (if (s.line.ins[n]).cfg.trigger.isSome then
      (t.fillLatch n s.time.count).wake else t) := by
    split
    · exact ht.congr (by simp) (by simp) (by simp)
    · exact ht
  have hset := h.setIn n { s.line.ins[n] with counter := (s.line.ins[n]).cfg.holdOff }
  unfold State.recognize
  refine arm ?_
  split
  · exact hset.capture _
  · exact hset

theorem takeChange (h : Bounds s) (n : InLine) (level : Bool) : Bounds (s.takeChange n level) := by
  unfold State.takeChange
  dsimp only
  split
  · exact h
  · split
    · exact (h.setIn n _).recognize n level
    · exact h.setIn n _

theorem clearAll (s : State) : Bounds s.clearAll :=
  ⟨⟨Nat.zero_le _, fun hne => absurd rfl hne, .nil⟩, ⟨Nat.zero_le _, .nil⟩, Nat.zero_le _, Nat.zero_le _⟩

theorem hardwareReset (s : State) : Bounds s.hardwareReset :=
  ⟨⟨Nat.zero_le _, fun hne => absurd rfl hne, .nil⟩, ⟨Nat.zero_le _, .nil⟩, Nat.zero_le _, Nat.zero_le _⟩

theorem control (h : Bounds s) (b : Byte) : Bounds (s.control b) := by
  have pop_capture {t : State} (ht : Bounds t) : Bounds t.popCapture :=
    ⟨ht.waiting, ht.stack, (List.tail_sublist _).length_le.trans ht.captures, ht.misses⟩
  have pop_miss {t : State} (ht : Bounds t) : Bounds t.popMiss :=
    ⟨ht.waiting, ht.stack, ht.captures, (List.tail_sublist _).length_le.trans ht.misses⟩
  have if_then {p : Prop} [Decidable p] {t u : State} (ht : Bounds t) (hu : Bounds u) :
      Bounds (if p then t else u) := by
    split <;> assumption
  have hr := h.finishTick
  have ht := if_then (p := b.getLsbD 2 = true) (hr.setWin { s.finishTick.win with collision := false }) hr
  have hu := if_then (p := b.getLsbD 3 = true) (pop_capture ht) ht
  have hv := if_then (p := b.getLsbD 4 = true) (pop_miss hu) hu
  exact if_then (clearAll _) ⟨hv.waiting, hv.stack, hv.captures, hv.misses⟩

end Bounds

/-! ## What keeps the bounds: the host operations -/

namespace Bounds

variable {s : State}

theorem afterQuery (h : Bounds s) (ph : OpPhase) : Bounds (s.afterQuery ph) := by
  unfold State.afterQuery
  split
  · exact h
  · exact h.takeAllPosts

theorem doDefine (h : Bounds s) (op : HostOp) (ph : OpPhase) : Bounds (s.doDefine op ph) := by
  have ht := h.afterQuery ph
  unfold State.doDefine
  split
  · exact h.complete _
  · split
    · exact h.complete _
    · dsimp only
      split
      · exact ht.complete _
      · split
        · exact ht.congr rfl rfl rfl
        · exact ht.complete _

theorem doRelease (h : Bounds s) (op : HostOp) (ph : OpPhase) : Bounds (s.doRelease op ph) := by
  have ht := h.afterQuery ph
  unfold State.doRelease
  split
  · exact h.complete _
  · split
    · exact h.complete _
    · exact h.complete _
    · dsimp only
      split
      · exact ht.complete _
      · split
        · exact ht.complete _
        · exact ht.congr rfl rfl rfl

theorem doReadDefinition (h : Bounds s) (op : HostOp) : Bounds (s.doReadDefinition op) := by
  unfold State.doReadDefinition
  split
  · exact h.complete _
  · split
    · exact h.complete _
    · exact h.congr rfl rfl rfl

theorem doReadState (h : Bounds s) (op : HostOp) (ph : OpPhase) : Bounds (s.doReadState op ph) := by
  unfold State.doReadState
  split
  · exact h.complete _
  · exact (h.afterQuery ph).congr rfl rfl rfl

theorem doArm (h : Bounds s) (op : HostOp) (ph : OpPhase) (span : Span) (r : Result) (t : EntryNo → Word) :
    Bounds (s.doArm op ph span r t) := by
  have harm : Bounds (s.armIf r op t) := h.congr (by simp) (by simp) (by simp)
  unfold State.doArm
  split
  · exact h.complete _
  · cases span with
    | whole => exact harm.complete r
    | carryOut => exact harm.congr rfl rfl rfl

theorem carryCancel (h : Bounds s) (op : HostOp) (e : EntryNo) : Bounds (s.carryCancel op e).1 := by
  have hdisarm : Bounds (s.disarm e) := h.congr (by simp) (by simp) (by simp)
  exact hdisarm.takeAllPosts.takeCancel e op.withdraw

theorem doCancel (h : Bounds s) (op : HostOp) (ph : OpPhase) : Bounds (s.doCancel op ph) := by
  unfold State.doCancel
  split
  · exact h.complete _
  · exact (h.carryCancel op _).complete _
  · exact h.complete _

theorem carryClear (h : Bounds s) (c : ClassNo) : Bounds (s.carryClear c) := by
  have hwalk : Bounds (s.clearWalk c) := h.congr (by simp) (by simp) (by simp)
  exact hwalk.takeAllPosts.takeClear c

theorem doClearClass (h : Bounds s) (op : HostOp) (ph : OpPhase) : Bounds (s.doClearClass op ph) := by
  unfold State.doClearClass
  split
  · exact h.complete _
  · exact h.complete _
  · exact (h.carryClear _).complete _

theorem doSetTime (h : Bounds s) (op : HostOp) : Bounds (s.doSetTime op) :=
  (h.takeAllPosts.shift (op.time - s.takeAllPosts.time.count)).congr rfl rfl rfl

theorem doWalkCompletion (h : Bounds s) (ph : OpPhase) : Bounds (s.doWalkCompletion ph) := by
  unfold State.doWalkCompletion
  split
  · exact complete (h.congr (by simp) (by simp) (by simp)) _
  · exact h

theorem sendLineConfig (h : Bounds s) (op : HostOp) : Bounds (s.sendLineConfig op) :=
  h.congr (by simp) (by simp) (by simp)

theorem doConfigureLine (h : Bounds s) (op : HostOp) (ph : OpPhase) : Bounds (s.doConfigureLine op ph) := by
  unfold State.doConfigureLine
  split
  · exact h.complete _
  · split
    · exact (h.sendLineConfig op).complete _
    · exact h.complete _

theorem takeLimit (h : Bounds s) (c : ClassNo) (limit : Half) : Bounds (s.takeLimit c limit) :=
  ⟨h.finishTick.waiting, h.finishTick.stack, h.finishTick.captures, h.finishTick.misses⟩

theorem doConfigureClass (h : Bounds s) (op : HostOp) (ph : OpPhase) : Bounds (s.doConfigureClass op ph) := by
  unfold State.doConfigureClass
  split
  · exact h.complete _
  · exact h.complete _
  · exact (h.takeLimit _ _).complete _

/-! ## What keeps the bounds: the register window -/

theorem writeMask (h : Bounds s) (b : Byte) : Bounds (s.writeMask b) :=
  ⟨h.finishTick.waiting, h.finishTick.stack, h.finishTick.captures, h.finishTick.misses⟩

theorem alertClear (h : Bounds s) (b : Byte) : Bounds (s.alertClear b) := h.finishTick.congr rfl rfl rfl

theorem writeOperation (h : Bounds s) (code : Byte) : Bounds (s.writeOperation code) :=
  h.congr (by simp) (by simp) (by simp)

theorem busWrite (h : Bounds s) (a : WinAddr) (b : Byte) : Bounds (s.busWrite a b) := by
  unfold State.busWrite
  split
  · exact h.control b
  · exact h.writeOperation b
  · exact h.congr rfl rfl rfl
  · exact h.congr rfl rfl rfl
  · exact h.congr rfl rfl rfl
  · exact h.writeDone b
  · exact h.congr rfl rfl rfl
  · exact h
  · exact h.writeMask b
  · exact h.alertClear b
  · exact h.congr rfl rfl rfl
  · exact h.congr rfl rfl rfl
  · exact h.congr rfl rfl rfl
  · exact h.congr rfl rfl rfl
  · exact h.congr rfl rfl rfl
  · exact h.congr rfl rfl rfl

end Bounds

/-! ## Every command keeps the bounds -/

/-- A command that RESET* holds off. -/
theorem Keeps.live {f : State → State} (hf : Keeps f) : Keeps (whenLive f) := fun s h => by
  unfold whenLive
  split
  · exact h
  · exact hf s h

/-- A row of the controller's work: the end of the piece before it touches no queue. -/
theorem Keeps.work {c : Instr} {f : State → State} (hc : ∀ s, exec c s = liveWork s f) (hf : Keeps f) :
    Keeps (effect c) := by
  rw [effect_of_work hc]
  exact Keeps.live fun s h => hf s.settle (h.congr (by simp) (by simp) (by simp))

/-- A row of an operation: its step, or nothing. -/
theorem Keeps.operation {c : Instr} {n : OpName} {f : State → HostOp → OpPhase → State}
    (hc : ∀ s, exec c s = liveWork s fun s => s.onOperation n (f s))
    (hf : ∀ s op ph, Bounds s → Bounds (f s op ph)) : Keeps (effect c) :=
  Keeps.work hc fun s h => by
    rcases onOperation_cases s n (f s) with heq | ⟨op, ph, _, heq⟩
    · exact heq.symm ▸ h
    · exact heq.symm ▸ hf s op ph h

/-- A change of none of the queues. -/
theorem Keeps.of_frame {f : State → State} (hd : ∀ s, (f s).du = s.du)
    (hc : ∀ s, (f s).line.captures = s.line.captures) (hm : ∀ s, (f s).alert.missLog = s.alert.missLog) : Keeps f :=
  fun s h => h.congr (hd s) (hc s) (hm s)

/-- A change that an arrival makes when it has been sent. -/
theorem Keeps.unless {p : State → Prop} [DecidablePred p] {f : State → State} (hf : Keeps f) :
    Keeps fun s => if p s then s else f s := fun s h => by
  dsimp only
  split
  · exact h
  · exact hf s h

theorem effect_keeps (c : Instr) : Keeps (effect c) := by
  cases c with
  | tbclkEdge => exact .live (.of_frame (by simp) (by simp) (by simp))
  | tick =>
    refine .live (f := fun s => if s.time.run && s.time.lastEdge then s.makeTick else s) fun s h => ?_
    dsimp only
    split
    · exact h.congr rfl rfl rfl
    · exact h
  | listControllerTick => exact .live (.unless (.of_frame (by simp) (by simp) (by simp)))
  | dispatchTick => exact .live (.unless fun _ h => h.takeDispatchTick)
  | staleWithdrawal => exact .live fun _ h => h.finishStale
  | serviceOverrun => exact .live fun _ h => h.finishOverrun
  | lineUnitTick => exact .live (.unless fun _ h => h.congr rfl rfl rfl)
  | divisorLow b => exact .live fun _ h => h.congr rfl rfl rfl
  | divisorHigh b => exact .live fun _ h => h.congr rfl rfl rfl
  | runStart => exact .live fun _ h => h.congr rfl rfl rfl
  | runStop => exact .live fun _ h => h.congr rfl rfl rfl
  | capture run => exact .live fun _ h => h.congr rfl rfl rfl
  | operation code => exact .live fun _ h => h.writeOperation code
  | define => exact .operation exec_row_define fun _ op ph h => h.doDefine op ph
  | release => exact .operation exec_row_release fun _ op ph h => h.doRelease op ph
  | readDefinition => exact .operation exec_row_readDefinition fun _ op _ h => h.doReadDefinition op
  | readState => exact .operation exec_row_readState fun _ op ph h => h.doReadState op ph
  | arm span => exact .operation (exec_row_arm span) fun _ op ph h => h.doArm op ph span _ _
  | armAt span => exact .operation (exec_row_armAt span) fun _ op ph h => h.doArm op ph span _ _
  | cancel => exact .operation exec_row_cancel fun _ op ph h => h.doCancel op ph
  | clearClass => exact .operation exec_row_clearClass fun _ op ph h => h.doClearClass op ph
  | setTime =>
    refine .operation exec_row_setTime fun s op ph h => ?_
    split
    · exact h.doSetTime op
    · exact h
  | setTimeWalkCompletion => exact .operation exec_row_setTimeWalkCompletion fun _ _ ph h => h.doWalkCompletion ph
  | configureLine => exact .operation exec_row_configureLine fun _ op ph h => h.doConfigureLine op ph
  | configureClass => exact .operation exec_row_configureClass fun _ op ph h => h.doConfigureClass op ph
  | unknownOperation =>
    refine .work exec_row_unknownOperation fun s h => ?_
    split
    · split
      · exact h.complete _
      · exact h
    · exact h
  | dueProcessingRun =>
    refine .work exec_row_dueProcessingRun fun s h => ?_
    split
    · exact h.congr (by simp) (by simp) (by simp)
    · exact h
  | triggerArm =>
    refine .work exec_row_triggerArm fun s h => ?_
    split
    · exact h.congr (by simp) (by simp) (by simp)
    · exact h
  | postRequest => exact .live fun _ h => h.takeNextPost
  | cancelRequest =>
    refine .operation exec_row_cancelRequest fun s op ph h => ?_
    split
    · exact (h.carryCancel op _).congr rfl rfl rfl
    · exact h
  | clearRequest =>
    refine .operation exec_row_clearRequest fun s op ph h => ?_
    split
    · exact (h.carryClear _).congr rfl rfl rfl
    · exact h
  | presenceQuery =>
    refine .work exec_row_presenceQuery fun s h => ?_
    split
    · exact h.takeAllPosts.congr rfl rfl rfl
    · exact h
  | serviceLimitReplacement =>
    refine .operation exec_row_serviceLimitReplacement fun s op ph h => ?_
    split
    · exact (h.takeLimit _ _).congr rfl rfl rfl
    · exact h
  | acknowledge => exact .live fun _ h => h.finishTick.ackEffect.congr rfl rfl rfl
  | done b => exact .live fun _ h => h.writeDone b
  | actionRequest => exact .live fun _ h => h.takeNextAction
  | lineConfiguration =>
    refine .operation exec_row_lineConfiguration fun s op ph h => ?_
    split
    · exact (h.sendLineConfig op).congr rfl rfl rfl
    · exact h
  | levelChange n level =>
    exact fun s h => Keeps.live (fun _ h => h.takeChange n level) (s.setPin n level) (h.congr rfl rfl rfl)
  | enable b => exact .live fun _ h => h.control b
  | clearAll b => exact .live fun _ h => h.control b
  | clearCollision b => exact .live fun _ h => h.control b
  | popCapture b => exact .live fun _ h => h.control b
  | popMiss b => exact .live fun _ h => h.control b
  | classMask b => exact .live fun _ h => h.writeMask b
  | alertClear b => exact .live fun _ h => h.alertClear b
  | alertEnable b => exact .live fun _ h => h.congr rfl rfl rfl
  | outputSet b => exact .live fun _ h => h.congr rfl rfl rfl
  | outputClear b => exact .live fun _ h => h.congr rfl rfl rfl
  | stagePointer b => exact .live fun _ h => h.congr rfl rfl rfl
  | stageDataWrite b => exact .live fun _ h => h.congr rfl rfl rfl
  | stageDataRead => exact .live fun _ h => h.congr rfl rfl rfl
  | viewData => exact .live fun _ h => h.finishTick.congr rfl rfl rfl
  | registerWrite a b => exact .live fun _ h => h.busWrite a b
  | hardwareReset => exact fun s _ => Bounds.hardwareReset s
  | resetNegation =>
    intro s h
    show Bounds (if s.win.resetAsserted then s.negateReset else s)
    split
    · exact h.congr rfl rfl rfl
    · exact h
  | runNextExpiry =>
    refine .work exec_row_runNextExpiry fun s h => ?_
    split
    · exact h.congr (by simp) (by simp) (by simp)
    · exact h

/-- Settles O57: a step leaves the effect of one command, and each command keeps the bounds. -/
theorem queuesKeepTheirBounds : Obligations.QueuesKeepTheirBounds := by
  intro s t h hstep
  rw [← bounds_iff] at h ⊢
  rcases step_cases hstep with rfl | ⟨c, rest, rfl⟩
  · exact h
  · exact effect_keeps c _ (h.congr rfl rfl rfl)

/-! ## Post requests (R80 to R83, R124) -/

/-- The saturating merge, with the limit written in decimal (R83). -/
theorem mergeInto_eq_map (e : EntryNo) (rs : List Record) : mergeInto e rs = rs.map fun r =>
    if r.entry = e then { r with overrun := if r.overrun = 255 then 255 else r.overrun + 1 } else r := by
  refine List.map_congr_left fun r _ => ?_
  have hmax : r.merge = { r with overrun := if r.overrun = 255 then 255 else r.overrun + 1 } := by
    by_cases h : r.overrun = 255
    · simp [Record.merge, h]
    · exact congrArg (fun o => { r with overrun := o }) ((if_neg h).trans (if_neg h).symm)
  rw [hmax]

theorem hasEvent_iff (s : State) (e : EntryNo) : s.hasEvent e = true ↔ ∃ r ∈ s.du.pool, r.entry = e := by
  simp [State.hasEvent]

theorem hasHeld_iff (s : State) (e : EntryNo) : s.hasHeld e = true ↔ ∃ r ∈ s.du.held, r.entry = e := by
  simp [State.hasHeld]

theorem hasService_iff (s : State) (e : EntryNo) : s.hasService e = true ↔ ∃ r ∈ s.du.stack, r.entry = e := by
  simp [State.hasService]

section
variable {s : State} {p : PostReq}

theorem postCase_of_event (h : s.hasEvent p.entry = true) :
    s.postCase p = { s with du := { s.du with pool := mergeInto p.entry s.du.pool } } := by
  simp [State.postCase, h]

theorem postCase_of_held (hp : s.hasEvent p.entry = false) (hh : s.hasHeld p.entry = true) :
    s.postCase p = { s with du := { s.du with held := mergeInto p.entry s.du.held } } := by
  simp [State.postCase, hp, hh]

theorem postCase_of_free_slot (hp : s.hasEvent p.entry = false) (hh : s.hasHeld p.entry = false)
    (hlen : s.du.pool.length < 32) :
    s.postCase p = { s with du := { s.du with pool := s.du.pool ++ [p.record] } } := by
  simp [State.postCase, hp, hh, Config.poolSlots, hlen]

theorem postCase_of_full (hp : s.hasEvent p.entry = false) (hh : s.hasHeld p.entry = false)
    (hlen : 32 ≤ s.du.pool.length) :
    s.postCase p = ({ s with du := { s.du with held := s.du.held ++ [p.record] } } : State).setCause .held := by
  simp [State.postCase, hp, hh, Config.poolSlots, not_lt.2 hlen]

end

/-- The line unit performs an action request whatever else is under way. -/
theorem perform_setLink (s : State) (k : Links) (a : ActionReq) :
    ({ s with link := k } : State).perform a = { s.perform a with link := k } := by
  cases a <;> rfl

theorem performAll_setLink (as : List ActionReq) (s : State) (k : Links) :
    ({ s with link := k } : State).performAll as = { s.performAll as with link := k } := by
  induction as generalizing s with
  | nil => rfl
  | cons a as ih =>
    have hcons (t : State) : t.performAll (a :: as) = (t.perform a).performAll as := rfl
    rw [hcons, hcons, perform_setLink, ih]

/-- The requests up to and with the first PULSE are taken together. -/
theorem splitPulse_at_pulse {before : List ActionReq} (h : ∀ a ∈ before, a.pulse? = none) (m : OutLine) (e : EntryNo)
    (after : List ActionReq) : splitPulse (before ++ .pulse m e :: after) = (before ++ [.pulse m e], after) := by
  induction before with
  | nil => rfl
  | cons a before ih =>
    have hrest := ih fun x hx => h x (List.mem_cons_of_mem a hx)
    have ha := h a List.mem_cons_self
    cases a with
    | pulse l x => cases ha
    | set l | clear l | toggle l => simp only [List.cons_append, splitPulse, hrest]

/-- A post request is taken whatever posts stand behind it. -/
theorem postCase_setLink (s : State) (k : Links) (p : PostReq) :
    ({ s with link := k } : State).postCase p = { s.postCase p with link := k } := by
  rcases s.postCase_cases p with ⟨hp, heq⟩ | ⟨hp, hh, heq⟩ | ⟨hp, hh, hlen, heq⟩ | ⟨hp, hh, hlen, heq⟩ <;> rw [heq]
  · exact postCase_of_event (s := { s with link := k }) hp
  · exact postCase_of_held (s := { s with link := k }) hp hh
  · exact postCase_of_free_slot (s := { s with link := k }) hp hh hlen
  · exact postCase_of_full (s := { s with link := k }) hp hh (not_lt.1 hlen)

/-- The post requests under way replaced. -/
def withPosts (s : State) (ps : List PostReq) : State := { s with link := { s.link with posts := ps } }

theorem takePost_withPosts (s : State) (ps : List PostReq) (p : PostReq) :
    (withPosts s ps).takePost p = withPosts (s.takePost p) ps := by
  unfold State.takePost
  split
  · rw [show (withPosts s ps).takePulse = withPosts s.takePulse ps by
      simp only [State.takePulse, withPosts, performAll_setLink]]
    simp only [withPosts, postCase_setLink, State.postCase_link]
  · simp only [withPosts, postCase_setLink, State.postCase_link]

/-- A post request touches neither mark of a tick. -/
theorem takePost_marks (s : State) (p : PostReq) :
    (s.takePost p).du.staleOwed = s.du.staleOwed ∧ (s.takePost p).du.overrunOwed = s.du.overrunOwed := by
  have marks (t : State) : (t.postCase p).du.staleOwed = t.du.staleOwed ∧
      (t.postCase p).du.overrunOwed = t.du.overrunOwed := by
    rcases t.postCase_cases p with ⟨_, h⟩ | ⟨_, _, h⟩ | ⟨_, _, _, h⟩ | ⟨_, _, _, h⟩ <;> rw [h] <;> exact ⟨rfl, rfl⟩
  unfold State.takePost
  split
  · simpa using marks s.takePulse
  · exact marks s

theorem takePost_posts (s : State) (p : PostReq) : (s.takePost p).link.posts = s.link.posts := by
  unfold State.takePost
  split
  · rw [State.postCase_link]
    rfl
  · rw [State.postCase_link]

theorem takeNextPost_cons {s : State} {p : PostReq} {ps : List PostReq} (h : s.link.posts = p :: ps) :
    s.takeNextPost = (withPosts s.finishTick ps).takePost p := by
  simp only [State.takeNextPost, h]
  rfl

/-- All the post requests are taken by taking the oldest and then all the others. -/
theorem takeAllPosts_cons {s : State} {p : PostReq} {ps : List PostReq} (h : s.link.posts = p :: ps) :
    s.takeAllPosts = s.takeNextPost.takeAllPosts := by
  have hmarks := takePost_marks (withPosts s.finishTick ps) p
  have hnone : s.takeNextPost.finishTick = s.takeNextPost := by
    rw [takeNextPost_cons h]
    exact State.finishTick_none (hmarks.1.trans s.finishTick_marks.1) (hmarks.2.trans s.finishTick_marks.2)
  have hposts : s.takeNextPost.link.posts = ps := by rw [takeNextPost_cons h, takePost_posts, withPosts]
  have all_of (t : State) : t.takeAllPosts =
      t.finishTick.link.posts.foldl State.takePost (withPosts t.finishTick []) := rfl
  rw [all_of, all_of, hnone, hposts, State.finishTick_link, h, List.foldl_cons, takeNextPost_cons h, takePost_withPosts,
    takePost_withPosts]
  rfl

theorem exec_postRequest {s : State} (hlive : s.Live) : exec .postRequest s = .next s.takeNextPost :=
  live_eq hlive State.takeNextPost

/-- Settles O37: the cases of a post request, the PULSE that goes with it, and the order of the queue. -/
theorem postRequestTakenByFirstCase : Obligations.PostRequestTakenByFirstCase := by
  refine ⟨fun s p => ?_, fun s hlive => ?_, fun s => ⟨fun hnil => ?_, fun hne => ?_⟩⟩
  · simp only [← hasEvent_iff, ← hasHeld_iff, Bool.not_eq_true, ← mergeInto_eq_map]
    exact ⟨postCase_of_event, postCase_of_held, postCase_of_free_slot, postCase_of_full⟩
  · dsimp only
    rw [exec_postRequest hlive]
    refine ⟨fun hnil => ?_, fun p ps hposts hline => ?_, fun p ps l before m e after hposts hline hacts hbefore => ?_⟩
    · simp only [State.takeNextPost, hnil]
    · simp only [takeNextPost_cons hposts, State.takePost, hline]
      rfl
    · have hsplit : splitPulse (withPosts s.finishTick ps).link.actions = (before ++ [.pulse m e], after) := by
        rw [withPosts, State.finishTick_link, hacts, splitPulse_at_pulse hbefore]
      have hpulse : (withPosts s.finishTick ps).takePulse = (before ++ [ActionReq.pulse m e]).foldl State.perform
          { s.finishTick with link := { s.finishTick.link with posts := ps, actions := after } } := by
        simp only [State.takePulse, hsplit]
        exact (performAll_setLink _ _ _).symm
      simp only [takeNextPost_cons hposts, State.takePost, hline, hpulse]
      rfl
  · simp only [State.takeAllPosts, State.finishTick_link, hnil]
    rw [List.foldl_nil, ← hnil, ← State.finishTick_link]
  · obtain ⟨p, ps, hposts⟩ := List.exists_cons_of_ne_nil hne
    exact takeAllPosts_cons hposts

/-! ## The presence query (R23, R93) -/

/-- An operation that asks has the entry it asks for as its target. -/
theorem queryTarget_of_asks {s : State} {n : OpName} {op : HostOp} {e : EntryNo} (hc : s.Carries n op .started)
    (hname : op.Names e) (hasks : Asks s n e) : s.queryTarget = some e := by
  obtain ⟨hslot, hcode, hwork⟩ := hc
  have hentry := HostOp.entry?_some hname
  rcases hasks with ⟨rfl, h⟩ | ⟨rfl, h⟩ | rfl
  · simp only [State.queryTarget, hslot, hwork, hcode, hentry, if_neg h]
  · simp only [State.queryTarget, hslot, hwork, hcode, hentry, if_pos h]
  · simp only [State.queryTarget, hslot, hwork, hcode, hentry]

/-- Settles O38: the answer is read off the state after the posts, and the row keeps it in the operation's phase. -/
theorem presenceQueryAnswersFromTheState : Obligations.PresenceQueryAnswersFromTheState := by
  intro s n op e hlive hc hname hasks
  obtain ⟨_, _, hwork⟩ := id hc
  refine ⟨s.takeAllPosts.presence e, ?_, hasEvent_iff _ e, hasHeld_iff _ e, hasService_iff _ e⟩
  rw [exec_row_presenceQuery, execPresenceQuery, liveWork_eq hlive, State.settle_operation hwork]
  simp only [queryTarget_of_asks hc hname hasks]
  rfl

/-! ## The tick (R87, R114) -/

/-- Settles O40: the rest of the tick before, the increments, and the two marks. -/
theorem dispatchTickAgesAndTimes : Obligations.DispatchTickAgesAndTimes := by
  intro s hlive
  have hrow : exec .dispatchTick s = .next (if s.link.ticksToDispatch = 0 then s else s.takeDispatchTick) :=
    live_eq hlive fun s => if s.link.ticksToDispatch = 0 then s else s.takeDispatchTick
  refine ⟨fun hnone => by rw [hrow, if_pos hnone], fun k hk => ?_⟩
  have hleft : s.finishTick.link.ticksToDispatch - 1 = k := by simp [hk]
  rw [hrow, if_neg (by omega), State.takeDispatchTick]
  simp only [hleft]
  rfl

/-! ## The plain registers (R94, R154, R156, R166, R167) -/

/-- Settles O52: each register's command by its own operation. -/
theorem plainRegisterCommands : Obligations.PlainRegisterCommands := by
  intro s b hlive
  have pointer_byte : (b.extractLsb' 0 4).toNat = b.toNat % 16 ∧ (b.extractLsb' 0 5).toNat = b.toNat % 32 ∧
      (b.extractLsb' 5 3).toNat = b.toNat / 32 := by
    have := b.isLt
    simp only [BitVec.extractLsb'_toNat, Nat.shiftRight_eq_div_pow]
    omega
  obtain ⟨hptr, hindex, hsource⟩ := pointer_byte
  refine ⟨live_eq hlive (·.writeMask b),
    ⟨s.finishTick.alert.causes &&& ~~~b, live_eq hlive (·.alertClear b), fun n => ?_⟩,
    live_eq hlive (·.alertEnable b), ⟨b.extractLsb' 0 4, hptr, live_eq hlive (·.writeStagePtr b)⟩,
    ⟨s.win.staging.set s.win.stagePtr.toFin b, ?_, fun i hi => ?_, live_eq hlive (·.writeStage b)⟩,
    live_eq hlive State.readStage, live_eq hlive (·.writeEntrySelect b),
    ⟨b.extractLsb' 5 3, b.extractLsb' 0 5, hsource, hindex, live_eq hlive (·.writeViewSelect b)⟩, live_eq hlive id⟩
  · simp
  · exact Vector.getElem_set_self _
  · exact Vector.getElem_set_ne _ _ hi.symm

/-! ## Eligibility, INT*, ALERT* and STATUS (R95, R96, R156, R163) -/

theorem eligible_iff (s : State) (c : ClassNo) : s.eligible c = true ↔
    (∃ r ∈ s.du.pool, r.cls = c) ∧ s.du.classMask.getLsbD c = false ∧ s.du.stack.length < 4 ∧
    (s.du.stack = [] ∨ ∃ top rest, s.du.stack = top :: rest ∧ c < top.cls) := by
  have hlist : (s.classList c).isEmpty = false ↔ ∃ r ∈ s.du.pool, r.cls = c := by
    simp [State.classList]
  rw [← hlist]
  cases hstack : s.du.stack with
  | nil => simp [State.eligible, Config.stackDepth, hstack]
  | cons top rest => simp [State.eligible, Config.stackDepth, hstack, and_assoc]

/-- Some class is eligible exactly when one is found in the order of priority. -/
theorem serveClass_isSome (s : State) : s.serveClass.isSome = true ↔ ∃ c, s.eligible c = true := by
  have hall : ∀ c : ClassNo, c ∈ allClasses := by decide
  simp [State.serveClass, hall]

/-- What is left of a tick touches neither the enables nor what a tick does not withdraw or check. -/
theorem finishTick_enables (s : State) : s.finishTick.alert.enables = s.alert.enables := by
  obtain ⟨d, log, m, gone, h⟩ := Withdrawing.finishTick s.du s.alert.missLog
  rw [h s rfl rfl, State.withdrawTo]

/-- The withdrawals keep what the check reads. -/
theorem finishStale_rest (s : State) : s.finishStale.du.rest =
    (s.du.stack, s.du.classMask, s.du.enable, s.du.limits, false, s.du.overrunOwed) := by
  unfold State.finishStale
  split
  · exact State.withdrawStale_rest _
  · next h => simp [DispatchUnit.rest, h]

/-- What is left of a tick marks records in service, and keeps the rest of what no withdrawal touches. -/
theorem finishTick_rest (s : State) : s.finishTick.du.enable = s.du.enable ∧
    s.finishTick.du.stack.isEmpty = s.du.stack.isEmpty := by
  have hrest := finishStale_rest s
  simp only [DispatchUnit.rest, Prod.mk.injEq] at hrest
  obtain ⟨hstack, -, henable, -⟩ := hrest
  rw [← henable, ← hstack]
  unfold State.finishTick State.finishOverrun
  split
  · unfold State.checkService
    dsimp only
    split <;> simp
  · exact ⟨rfl, rfl⟩

theorem finishTick_status (s : State) : s.finishTick.status =
    byteOfFlags s.du.enable s.busy s.win.collision s.adjusting s.time.run s.intAsserted s.alertAsserted
      (!s.du.stack.isEmpty) := by
  obtain ⟨henable, hstack⟩ := finishTick_rest s
  simp only [State.status, State.busy, State.adjusting, State.intAsserted, State.alertAsserted, henable, hstack,
    State.finishTick_lc, State.finishTick_win, State.finishTick_time, State.finishTick_idem]

theorem adjusting_iff (s : State) : s.adjusting = true ↔ ∃ d, s.lc.work = .operation (.adjusting d) := by
  unfold State.adjusting
  split
  · next d h => simp [h]
  · next h => simpa using h

/-- The eight flags of a byte, bit by bit. -/
theorem getLsbD_byteOfFlags (b0 b1 b2 b3 b4 b5 b6 b7 : Bool) :
    let b := byteOfFlags b0 b1 b2 b3 b4 b5 b6 b7
    b.getLsbD 0 = b0 ∧ b.getLsbD 1 = b1 ∧ b.getLsbD 2 = b2 ∧ b.getLsbD 3 = b3 ∧ b.getLsbD 4 = b4 ∧ b.getLsbD 5 = b5 ∧
      b.getLsbD 6 = b6 ∧ b.getLsbD 7 = b7 := by
  revert b0 b1 b2 b3 b4 b5 b6 b7
  decide

/-- Two bytes have a bit in common exactly when their conjunction is not 0. -/
theorem and_ne_zero_iff (a b : Byte) : (a &&& b != 0) = true ↔
    ∃ n : Fin 8, a.getLsbD n = true ∧ b.getLsbD n = true := by
  rw [bne_iff_ne]
  constructor
  · intro hne
    by_contra hnone
    refine hne (BitVec.eq_of_getLsbD_eq fun i hi => ?_)
    have hi := not_and.1 (not_exists.1 hnone ⟨i, hi⟩)
    simpa using hi
  · rintro ⟨n, ha, hb⟩ heq
    have hbit := congrArg (·.getLsbD n) heq
    simp only [BitVec.getLsbD_and, ha, hb] at hbit
    simp at hbit

/-- Settles O44: each line and each bit of STATUS by what it reports. -/
theorem eligibilityDrivesTheLinesAndStatus : Obligations.EligibilityDrivesTheLinesAndStatus := by
  intro s
  refine ⟨eligible_iff s, ?_, ?_, fun hlive => ⟨s.finishTick.status, State.busRead_live hlive 0x0, ?_⟩⟩
  · simp only [State.intAsserted, State.serviceWanted, Bool.and_eq_true, serveClass_isSome, (finishTick_rest s).1]
  · rw [State.alertAsserted, State.causeEnabled, and_ne_zero_iff, finishTick_enables]
  · rw [finishTick_status]
    obtain ⟨h0, h1, h2, h3, h4, h5, h6, h7⟩ := getLsbD_byteOfFlags s.du.enable s.busy s.win.collision s.adjusting
      s.time.run s.intAsserted s.alertAsserted (!s.du.stack.isEmpty)
    rw [h1, h3, h7, adjusting_iff, State.busy, Option.isSome_iff_exists]
    exact ⟨h0, .rfl, h2, .rfl, h4, h5, h6, by simp⟩

/-! ## Withdrawals one after another (R84 to R86, R125)

Between the withdrawals of one event the state is `leaving`: some records have gone, and the pool and the held queue are
what they have left. Each withdrawal takes one such state to the next. -/

/-- The miss log and the causes after the records that have gone. -/
def logged (a : AlertUnit) (reason : MissReason) (gone : List Record) : AlertUnit :=
  { a with
    missLog := logAfter a.missLog (gone.map fun r => r.miss reason)
    causes := causeIf (decide (Config.missLogSize < a.missLog.length + gone.length)) a.causes .missLost }

/-- The holder sets after the records that have gone: an entry whose gone record names the line stays while a record of it
is in service. -/
def released (outs : Vector OutputLine 8) (stack : List ServiceRecord) (gone : List Record) : Vector OutputLine 8 :=
  outs.mapFinIdx fun i o h => { o with holders := o.holders.filter fun e =>
    !(gone.any (fun r => r.entry = e && r.pulseLine = some ⟨i, h⟩) && !stack.any fun r => r.entry = e) }

theorem getElem_released (outs : Vector OutputLine 8) (stack : List ServiceRecord) (gone : List Record) (i : Nat)
    (hi : i < 8) : (released outs stack gone)[i] = { outs[i] with holders := (outs[i]).holders.filter fun e =>
      !(gone.any (fun r => r.entry = e && r.pulseLine = some ⟨i, hi⟩) && !stack.any fun r => r.entry = e) } := by
  simp [released]

/-- The state in which these records have gone and these wait. -/
def leaving (s : State) (reason : MissReason) (pool held gone : List Record) : State :=
  { s with
    du := { s.du with pool := pool, held := held }
    alert := logged s.alert reason gone
    line := { s.line with outs := released s.line.outs s.du.stack gone } }

/-- Nothing has gone yet. -/
theorem leaving_nil {s : State} (reason : MissReason) (h : s.alert.missLog.length ≤ Config.missLogSize) :
    leaving s reason s.du.pool s.du.held [] = s := by
  have halert : logged s.alert reason [] = s.alert := by
    simp [logged, logAfter, causeIf, not_lt.2 h]
  have houts : released s.line.outs s.du.stack [] = s.line.outs := by
    ext i hi : 1
    simp [getElem_released]
  rw [leaving, halert, houts]

/-- One miss record more. -/
theorem logMiss_logged (s : State) (a : AlertUnit) (reason : MissReason) (gone : List Record) (r : Record) :
    ({ s with alert := logged a reason gone } : State).logMiss (r.miss reason) =
      { s with alert := logged a reason (gone ++ [r]) } := by
  have hlength : (logAfter a.missLog (gone.map fun r => r.miss reason)).length =
      a.missLog.length + min (Config.missLogSize - a.missLog.length) gone.length := by
    simp [logAfter]
  by_cases hroom : a.missLog.length + gone.length < Config.missLogSize
  · have hlt : (logged a reason gone).missLog.length < Config.missLogSize := by
      simp only [logged, hlength]
      omega
    have hall : ∀ l : List MissRecord, l.length ≤ gone.length + 1 →
        l.take (Config.missLogSize - a.missLog.length) = l :=
      fun l hl => List.take_of_length_le (by omega)
    have hkept : ¬ Config.missLogSize < a.missLog.length + (gone.length + 1) := by omega
    simp only [State.logMiss, if_pos hlt]
    simp [logged, logAfter, hall, causeIf, not_lt.2 hroom.le, hkept]
  · have hge : ¬ (logged a reason gone).missLog.length < Config.missLogSize := by
      simp only [logged, hlength]
      omega
    have hlost : Config.missLogSize < a.missLog.length + (gone.length + 1) := by omega
    have htake : Config.missLogSize - a.missLog.length ≤ (gone.map fun r => r.miss reason).length := by
      simp only [List.length_map]
      omega
    simp only [State.logMiss, if_neg hge]
    simp only [State.setCause, logged, logAfter, List.map_append, List.take_append_of_le_length htake,
      List.length_append, List.length_singleton, hlost, decide_true, causeIf, withCause, if_true]
    congr 2
    split
    · rw [BitVec.or_assoc, BitVec.or_self]
    · rfl

/-- Records that go in two groups. -/
theorem released_append (outs : Vector OutputLine 8) (stack : List ServiceRecord) (gone more : List Record) :
    released outs stack (gone ++ more) = released (released outs stack gone) stack more := by
  ext i hi : 1
  simp only [getElem_released, List.filter_filter, List.any_append]
  congr 2
  funext e
  rw [← Bool.not_or, Bool.or_comm, Bool.and_or_distrib_right]

/-- A record has gone of which no other waits: its entry stops holding its line unless it is in service (R125). -/
theorem releaseAfter_eq {s : State} {r : Record} (h : ∀ x ∈ s.du.pool ++ s.du.held, x.entry ≠ r.entry) :
    s.releaseAfter r.entry r.pulseLine =
      { s with line := { s.line with outs := released s.line.outs s.du.stack [r] } } := by
  have hservice : s.hasRecord r.entry = s.du.stack.any fun x => x.entry = r.entry := by
    have hevent : s.hasEvent r.entry = false := by
      simpa [State.hasEvent] using fun x hx => h x (List.mem_append_left _ hx)
    have hheld : s.hasHeld r.entry = false := by
      simpa [State.hasHeld] using fun x hx => h x (List.mem_append_right _ hx)
    simp [State.hasRecord, State.presence, Presence.any, hevent, hheld, State.hasService, beq_eq_decide]
  rcases s.releaseAfter_cases r.entry r.pulseLine with ⟨hkept, heq⟩ | ⟨l, hline, hgone, heq⟩ <;>
    rw [hservice] at * <;> rw [heq]
  · have houts : released s.line.outs s.du.stack [r] = s.line.outs := by
      ext i hi : 1
      rw [getElem_released]
      refine congrArg (OutputLine.mk _) (List.filter_eq_self.2 fun e _ => ?_)
      by_cases he : r.entry = e
      · subst he
        rcases hkept with hnone | hservice
        · simp [hnone]
        · simp only [hservice, Bool.not_true, Bool.and_false, Bool.not_false]
      · simp [he]
    rw [houts]
  · have houts : released s.line.outs s.du.stack [r] = s.line.outs.set l ((s.line.outs[l]).unhold r.entry) := by
      ext i hi : 1
      rw [getElem_released]
      by_cases hil : l.val = i
      · subst hil
        rw [Vector.getElem_set_self]
        refine congrArg (OutputLine.mk _) (List.filter_congr fun e _ => ?_)
        by_cases he : r.entry = e
        · subst he
          simp only [hgone]
          simp [hline]
        · simp [he, Ne.symm he]
      · have hne : l ≠ ⟨i, hi⟩ := fun heq => hil (by rw [heq])
        rw [Vector.getElem_set_ne _ hi hil]
        exact congrArg (OutputLine.mk _) (List.filter_eq_self.2 fun e _ => by simp [hline, hne])
    rw [houts]
    rfl

/-- A record that goes sends its miss record and the release called for (R85, R86). -/
theorem leave_leaving (s : State) (reason : MissReason) {pool held : List Record} (gone : List Record) {r : Record}
    (h : ∀ x ∈ pool ++ held, x.entry ≠ r.entry) :
    ((leaving s reason pool held gone).logMiss (r.miss reason)).releaseAfter r.entry r.pulseLine =
      leaving s reason pool held (gone ++ [r]) := by
  rw [show (leaving s reason pool held gone).logMiss (r.miss reason) = _ from
    logMiss_logged (leaving s reason pool held gone) s.alert reason gone r]
  refine (releaseAfter_eq h).trans ?_
  rw [leaving, leaving, released_append]

section
variable {pool held : List Record} {r : Record}

/-- With one waiting record at most for each entry, none remains of a held record that goes. -/
theorem entry_ne_of_held_gone (ho : ((pool ++ held).map Record.entry).Nodup) (hr : r ∈ held) :
    ∀ x ∈ pool ++ held.erase r, x.entry ≠ r.entry := by
  have hperm : (pool ++ held).Perm (r :: (pool ++ held.erase r)) :=
    ((List.perm_cons_erase hr).append_left pool).trans List.perm_middle
  have hnodup := (hperm.map Record.entry).nodup_iff.1 ho
  exact fun x hx heq => (List.nodup_cons.1 hnodup).1 (heq ▸ List.mem_map_of_mem hx)

/-- Nor of an event that goes. -/
theorem entry_ne_of_event_gone (ho : ((pool ++ held).map Record.entry).Nodup) (hr : r ∈ pool) :
    ∀ x ∈ pool.erase r ++ held, x.entry ≠ r.entry := by
  have hperm : (pool ++ held).Perm (r :: (pool.erase r ++ held)) := (List.perm_cons_erase hr).append_right held
  have hnodup := (hperm.map Record.entry).nodup_iff.1 ho
  exact fun x hx heq => (List.nodup_cons.1 hnodup).1 (heq ▸ List.mem_map_of_mem hx)

end

/-- A removal from a list without repeats, and then of others. -/
theorem filter_erase {l : List Record} (hl : l.Nodup) (r : Record) (gone : List Record) :
    (l.erase r).filter (fun x => x ∉ gone) = l.filter fun x => x ∉ r :: gone := by
  rw [hl.erase_eq_filter, List.filter_filter]
  exact List.filter_congr fun x _ => by
    simp [bne, beq_eq_decide, Bool.and_comm]

/-- The others stay when one record goes. -/
theorem subset_erase {r : Record} {l rs : List Record} (hr : r ∉ l) (hsub : r :: l ⊆ rs) : l ⊆ rs.erase r := fun x hx =>
  (List.mem_erase_of_ne fun heq : x = r => hr (heq ▸ hx)).2 (hsub (List.mem_cons_of_mem r hx))

/-- Held records that go one after another: no slot frees. -/
theorem foldl_withdrawHeld (s : State) (reason : MissReason) (pool : List Record) {l : List Record} (hl : l.Nodup)
    {held : List Record} (gone : List Record) (ho : ((pool ++ held).map Record.entry).Nodup) (hsub : l ⊆ held) :
    l.foldl (State.withdrawHeld reason) (leaving s reason pool held gone) =
      leaving s reason pool (held.filter fun r => r ∉ l) (gone ++ l) := by
  induction l generalizing held gone with
  | nil => simp
  | cons r l ih =>
    obtain ⟨hrl, hl⟩ := List.nodup_cons.1 hl
    have hheld : held.Nodup := (List.nodup_append.1 (List.Nodup.of_map _ ho)).2.1
    have hr : r ∈ held := hsub List.mem_cons_self
    have hstep : (leaving s reason pool held gone).withdrawHeld reason r =
        leaving s reason pool (held.erase r) (gone ++ [r]) :=
      leave_leaving s reason gone (entry_ne_of_held_gone ho hr)
    have ho' := ho.sublist (((List.erase_sublist (a := r)).append_left pool).map Record.entry)
    rw [List.foldl_cons, hstep, ih hl _ ho' (subset_erase hrl hsub), filter_erase hheld, List.append_assoc]
    rfl

/-- An event goes, and the held head has its slot (R84). -/
theorem withdrawEvent_leaving (s : State) (reason : MissReason) {pool held : List Record} (gone : List Record)
    {r : Record} (hlen : pool.length ≤ Config.poolSlots) (ho : ((pool ++ held).map Record.entry).Nodup)
    (hr : r ∈ pool) :
    (leaving s reason pool held gone).withdrawEvent reason r =
      leaving s reason (pool.erase r ++ held.take 1) (held.drop 1) (gone ++ [r]) := by
  have hfree : (pool.erase r).length < Config.poolSlots := by
    have hpos := List.length_pos_of_mem hr
    rw [List.length_erase_of_mem hr]
    omega
  have hgone : (leaving s reason pool held gone).withdrawEvent reason r =
      (leaving s reason (pool.erase r) held (gone ++ [r])).refill :=
    congrArg State.refill (leave_leaving s reason gone (entry_ne_of_event_gone ho hr))
  rw [hgone]
  cases held with
  | nil => simp [State.refill, leaving]
  | cons h hs => simp [State.refill, leaving, hfree]

/-- Events that go one after another: the freed slots go to the held records in order. -/
theorem foldl_withdrawEvent (s : State) (reason : MissReason) {l : List Record} (hl : l.Nodup) {pool held : List Record}
    (gone : List Record) (hlen : pool.length ≤ Config.poolSlots) (ho : ((pool ++ held).map Record.entry).Nodup)
    (hsub : l ⊆ pool) :
    l.foldl (State.withdrawEvent reason) (leaving s reason pool held gone) =
      leaving s reason ((pool.filter fun r => r ∉ l) ++ held.take l.length) (held.drop l.length) (gone ++ l) := by
  induction l generalizing pool held gone with
  | nil => simp
  | cons r l ih =>
    obtain ⟨hrl, hl⟩ := List.nodup_cons.1 hl
    have hwaiting := List.nodup_append.1 (List.Nodup.of_map _ ho)
    have hr : r ∈ pool := hsub List.mem_cons_self
    have hperm : (pool.erase r ++ held.take 1 ++ held.drop 1).Sublist (pool ++ held) := by
      rw [List.append_assoc, List.take_append_drop]
      exact List.erase_sublist.append_right held
    have hlen' : (pool.erase r ++ held.take 1).length ≤ Config.poolSlots := by
      have hpos := List.length_pos_of_mem hr
      rw [List.length_append, List.length_erase_of_mem hr, List.length_take]
      omega
    have hsub' : l ⊆ pool.erase r ++ held.take 1 := fun x hx => List.mem_append_left _ (subset_erase hrl hsub hx)
    have hkept : (held.take 1).filter (fun x => x ∉ l) = held.take 1 := List.filter_eq_self.2 fun x hx => by
      have hne := hwaiting.2.2 x
      simp only [decide_eq_true_eq]
      exact fun hxl => hne (hsub (List.mem_cons_of_mem r hxl)) x (List.mem_of_mem_take hx) rfl
    have htake : held.take (l.length + 1) = held.take 1 ++ (held.drop 1).take l.length := by
      rw [Nat.add_comm, List.take_add]
    rw [List.foldl_cons, withdrawEvent_leaving s reason gone hlen ho hr, ih hl _ hlen' (ho.sublist (hperm.map _)) hsub',
      List.filter_append, filter_erase hwaiting.1, hkept, List.length_cons, htake, List.drop_drop]
    simp [Nat.add_comm]

/-- No record of an entry waits any longer when its waiting record has gone. -/
theorem none_waits_of_gone {s : State} (ho : s.WaitingOnce) {goneHeld gonePool : List Record}
    (hh : goneHeld ⊆ s.du.held) (hp : gonePool ⊆ s.du.pool) {g : Record} (hg : g ∈ goneHeld ++ gonePool) :
    (((s.du.pool.filter fun r => r ∉ gonePool) ++ (s.du.held.filter fun r => r ∉ goneHeld).take gonePool.length ++
      (s.du.held.filter fun r => r ∉ goneHeld).drop gonePool.length).any fun r => r.entry = g.entry) = false := by
  rw [List.append_assoc, List.take_append_drop, List.any_eq_false]
  have hwaiting := List.nodup_append.1 (List.Nodup.of_map _ ho)
  intro x hx heq
  have hgw : g ∈ s.du.pool ++ s.du.held :=
    List.mem_append.2 ((List.mem_append.1 hg).symm.imp (fun h => hp h) fun h => hh h)
  simp only [List.mem_append, List.mem_filter, decide_eq_true_eq] at hx heq
  have hxw : x ∈ s.du.pool ++ s.du.held := List.mem_append.2 (hx.imp And.left And.left)
  obtain rfl := List.inj_on_of_nodup_map ho hxw hgw heq
  rcases hx with ⟨hxp, hnot⟩ | ⟨hxh, hnot⟩ <;> rcases List.mem_append.1 hg with hgh | hgp
  · exact hwaiting.2.2 x hxp x (hh hgh) rfl
  · exact hnot hgp
  · exact hnot hgh
  · exact hwaiting.2.2 x (hp hgp) x hxh rfl

/-- One event's withdrawals leave `withdrawn`: with one waiting record at most for each entry, an entry that loses its
record has none left but in service. -/
theorem withdrawn_eq_leaving {s : State} (ho : s.WaitingOnce) (reason : MissReason) {goneHeld gonePool : List Record}
    (hh : goneHeld ⊆ s.du.held) (hp : gonePool ⊆ s.du.pool) :
    s.withdrawn reason goneHeld gonePool = leaving s reason
      ((s.du.pool.filter fun r => r ∉ gonePool) ++ (s.du.held.filter fun r => r ∉ goneHeld).take gonePool.length)
      ((s.du.held.filter fun r => r ∉ goneHeld).drop gonePool.length) (goneHeld ++ gonePool) := by
  simp only [State.withdrawn, leaving, logged, State.mk.injEq, LineUnit.mk.injEq, true_and, and_true]
  ext i hi : 1
  rw [Vector.getElem_mapFinIdx, getElem_released]
  refine congrArg (OutputLine.mk _) (List.filter_congr fun e _ => ?_)
  by_cases hgone : ∃ g ∈ goneHeld ++ gonePool, g.entry = e
  · obtain ⟨g, hg, rfl⟩ := hgone
    have hnone := none_waits_of_gone ho hh hp hg
    simp only [hnone, Bool.false_or]
  · have hnever (l : Option OutLine) : ((goneHeld ++ gonePool).any fun r => r.entry = e && r.pulseLine = l) = false :=
      List.any_eq_false.2 fun g hg hge => hgone ⟨g, hg, of_decide_eq_true (Bool.and_eq_true_iff.1 hge).1⟩
    simp only [hnever, Bool.false_and]

/-- The withdrawals of one event, held records first, are the closed form of the statements. -/
theorem foldl_eq_withdrawn {s : State} (hq : QueueLaw s) (ho : s.WaitingOnce) (reason : MissReason)
    {goneHeld gonePool : List Record} (hh : goneHeld ⊆ s.du.held) (hhn : goneHeld.Nodup) (hp : gonePool ⊆ s.du.pool)
    (hpn : gonePool.Nodup) :
    gonePool.foldl (State.withdrawEvent reason) (goneHeld.foldl (State.withdrawHeld reason) s) =
      s.withdrawn reason goneHeld gonePool := by
  have hheld : goneHeld.foldl (State.withdrawHeld reason) s =
      leaving s reason s.du.pool (s.du.held.filter fun r => r ∉ goneHeld) goneHeld := by
    have h := foldl_withdrawHeld s reason s.du.pool hhn [] ho hh
    rwa [leaving_nil reason hq.miss_bound, List.nil_append] at h
  have ho' := List.Nodup.sublist ((List.filter_sublist (p := fun r => r ∉ goneHeld)).append_left s.du.pool |>.map _) ho
  rw [hheld, foldl_withdrawEvent s reason hpn goneHeld hq.pool_bound ho' hp, withdrawn_eq_leaving ho reason hh hp]

/-! ## Cancel and clear requests (R90, R91) -/

/-- A held record that goes leaves the pool, and every other list of the dispatch unit, alone. -/
theorem foldl_withdrawHeld_pool (reason : MissReason) (l : List Record) (s : State) :
    (l.foldl (State.withdrawHeld reason) s).du.pool = s.du.pool :=
  foldl_frame _ (·.du.pool) (fun s r => by simp [State.withdrawHeld]) l s

section
variable {s : State} (hq : QueueLaw s) (ho : s.WaitingOnce)
include hq ho

/-- Events and held records picked out by a property go as one event's withdrawals. -/
theorem foldl_filter_eq_withdrawn (reason : MissReason) (p q : Record → Bool) :
    (s.du.pool.filter q).foldl (State.withdrawEvent reason)
      ((s.du.held.filter p).foldl (State.withdrawHeld reason) s) =
      s.withdrawn reason (s.du.held.filter p) (s.du.pool.filter q) := by
  have hwaiting := List.nodup_append.1 (List.Nodup.of_map _ ho)
  exact foldl_eq_withdrawn hq ho reason (List.filter_subset_self _) (hwaiting.2.1.filter _) (List.filter_subset_self _)
    (hwaiting.1.filter _)

theorem takeCancel_eq_withdrawn (e : EntryNo) (w : Bool) :
    s.takeCancel e w = s.withdrawn .withdrawn (s.du.held.filter fun r => r.entry = e)
      (if w then s.du.pool.filter fun r => r.entry = e else []) := by
  cases w with
  | true =>
    simp only [State.takeCancel, foldl_withdrawHeld_pool, if_true, beq_eq_decide]
    exact foldl_filter_eq_withdrawn hq ho .withdrawn _ _
  | false =>
    simp only [State.takeCancel, Bool.false_eq_true, if_false, beq_eq_decide]
    have hnone := foldl_filter_eq_withdrawn hq ho .withdrawn (fun r => r.entry = e) fun _ => false
    simpa using hnone

theorem takeClear_eq_withdrawn (c : ClassNo) :
    s.takeClear c = s.withdrawn .withdrawn (s.du.held.filter fun r => r.cls = c)
      (s.du.pool.filter fun r => r.cls = c) := by
  simp only [State.takeClear, State.classList, foldl_withdrawHeld_pool, beq_eq_decide]
  exact foldl_filter_eq_withdrawn hq ho .withdrawn _ _

end

/-- The checks of CANCEL pass for a defined entry (R43). -/
theorem checkDefined_complete {s : State} {op : HostOp} {e : EntryNo} (hname : op.Names e)
    (hdef : (s.entry e).timing ≠ .free) : s.checkDefined op = .complete := by
  simp only [State.checkDefined, HostOp.entry?_some hname, if_neg hdef]

/-- CANCEL's result by what the list side removed and the dispatch unit found (R44). -/
theorem cancelResult_eq (t : TimingState) (q : State) (e : EntryNo) (w : Bool) :
    cancelResult (t == .armed) (q.hasHeld e) (w && q.hasEvent e) =
      if t = .armed ∨ (∃ r ∈ q.du.held, r.entry = e) ∨ (w = true ∧ ∃ r ∈ q.du.pool, r.entry = e)
        then .complete else .noEffect := by
  simp only [cancelResult, Bool.or_eq_true, Bool.and_eq_true, beq_iff_eq, hasHeld_iff, hasEvent_iff, or_assoc]

theorem exec_cancelRequest_sends {s : State} {op : HostOp} {e : EntryNo} (hlive : s.Live)
    (hc : s.Carries .cancel op .started) (hname : op.Names e) (hdef : (s.entry e).timing ≠ .free) :
    exec .cancelRequest s =
      .next ((s.carryCancel op e).1.setWork (.operation (.carriedOut (s.carryCancel op e).2))) := by
  rw [exec_row_cancelRequest, execCancelRequest, liveWork_carries hlive hc]
  simp only [checkDefined_complete hname hdef, HostOp.entry?_some hname]

theorem exec_clearRequest_sends {s : State} {op : HostOp} {c : ClassNo} (hlive : s.Live)
    (hc : s.Carries .clearClass op .started) (hclass : op.class? = some c) :
    exec .clearRequest s = .next ((s.carryClear c).setWork (.operation (.carriedOut .complete))) := by
  rw [exec_row_clearRequest, execClearRequest, liveWork_carries hlive hc]
  simp only [hclass]

/-- Settles O39: what the two requests withdraw, and the rows that send them after the list side. -/
theorem cancelAndClearRequestsWithdraw : Obligations.CancelAndClearRequestsWithdraw := by
  refine ⟨fun s e w hq ho => takeCancel_eq_withdrawn hq ho e w, fun s c hq ho => takeClear_eq_withdrawn hq ho c,
    fun s op e hlive hc hname hdef => ?_, fun s op c hlive hc hclass => ?_⟩
  · rw [exec_cancelRequest_sends hlive hc hname hdef]
    simp only [State.carryCancel, State.sendCancel, cancelResult_eq]
    rfl
  · rw [exec_clearRequest_sends hlive hc (HostOp.class?_some hclass)]
    rfl

/-! ## Stale withdrawals (R88) -/

/-- The stale events of a class, from the head of its list. -/
def staleOf (pool : List Record) (c : ClassNo) : List Record := pool.filter fun r => decide (r.cls = c) && r.isStale

theorem mem_staleOf {pool : List Record} {c : ClassNo} {r : Record} :
    r ∈ staleOf pool c ↔ r ∈ pool ∧ r.cls = c ∧ r.isStale = true := by
  simp [staleOf]

theorem withdrawStaleClass_eq (s : State) (c : ClassNo) :
    s.withdrawStaleClass c = (staleOf s.du.pool c).foldl (State.withdrawEvent .stale) s := by
  simp only [State.withdrawStaleClass, State.classList, List.filter_filter, staleOf, beq_eq_decide, Bool.and_comm]

/-- The withdrawals of one class leave the stale events of another as they were: the held records that come in are not
stale. -/
theorem staleOf_after {pool held : List Record} {c d : ClassNo} (hcd : c ≠ d) (hheld : ∀ r ∈ held, r.isStale = false)
    (n : Nat) : staleOf ((pool.filter fun r => r ∉ staleOf pool c) ++ held.take n) d = staleOf pool d := by
  have hin : staleOf (held.take n) d = [] := List.filter_eq_nil_iff.2 fun r hr => by
    simp [hheld r (List.mem_of_mem_take hr)]
  have hout : staleOf (pool.filter fun r => r ∉ staleOf pool c) d = staleOf pool d := by
    rw [staleOf, staleOf, List.filter_filter]
    refine List.filter_congr fun r _ => ?_
    by_cases hd : r.cls = d
    · have hc : r.cls ≠ c := fun h => hcd (h.symm.trans hd)
      simp [hc]
    · simp [hd]
  rw [staleOf, List.filter_append]
  exact (congrArg₂ _ hout hin).trans (List.append_nil _)

/-- The freed slots are enough for the held records that come in. -/
theorem length_after {pool gone : List Record} (hp : pool.Nodup) (hg : gone.Nodup) (hsub : gone ⊆ pool)
    (held : List Record) :
    ((pool.filter fun r => r ∉ gone) ++ held.take gone.length).length ≤ pool.length := by
  have hnodup : ((pool.filter fun r => r ∉ gone) ++ gone).Nodup :=
    List.nodup_append.2 ⟨hp.filter _, hg, fun x hx y hy heq => by
      subst heq
      simp [hy] at hx⟩
  have hle := (hnodup.subperm (List.append_subset.2 ⟨List.filter_subset_self _, hsub⟩)).length_le
  simp only [List.length_append, List.length_take] at hle ⊢
  omega

/-- The class lists one after another: the stale events of all of them as they stood at the start. -/
theorem foldl_withdrawStaleClass (s : State) {cs : List ClassNo} (hcs : cs.Nodup) {pool held : List Record}
    (gone : List Record) (hlen : pool.length ≤ Config.poolSlots) (ho : ((pool ++ held).map Record.entry).Nodup)
    (hheld : ∀ r ∈ held, r.isStale = false) :
    cs.foldl State.withdrawStaleClass (leaving s .stale pool held gone) =
      (cs.flatMap (staleOf pool)).foldl (State.withdrawEvent .stale) (leaving s .stale pool held gone) := by
  induction cs generalizing pool held gone with
  | nil => rfl
  | cons c cs ih =>
    obtain ⟨hccs, hcs⟩ := List.nodup_cons.1 hcs
    have hpool : pool.Nodup := (List.nodup_append.1 (List.Nodup.of_map _ ho)).1
    have hstale : (staleOf pool c).Nodup := hpool.filter _
    have hsub : staleOf pool c ⊆ pool := List.filter_subset_self _
    have hfirst := foldl_withdrawEvent s .stale hstale gone hlen ho hsub
    have hafter : (((pool.filter fun r => r ∉ staleOf pool c) ++ held.take (staleOf pool c).length ++
        held.drop (staleOf pool c).length).map Record.entry).Nodup := by
      rw [List.append_assoc, List.take_append_drop]
      exact ho.sublist ((List.filter_sublist.append_right held).map _)
    have hothers : cs.flatMap
        (staleOf ((pool.filter fun r => r ∉ staleOf pool c) ++ held.take (staleOf pool c).length)) =
        cs.flatMap (staleOf pool) :=
      List.flatMap_congr fun d hd => staleOf_after (ne_of_mem_of_not_mem hd hccs).symm hheld _
    rw [List.foldl_cons, withdrawStaleClass_eq, List.flatMap_cons, List.foldl_append]
    change cs.foldl _ ((staleOf pool c).foldl _ _) = _
    rw [hfirst, ih hcs _ ((length_after hpool hstale hsub held).trans hlen) hafter
      fun r hr => hheld r (List.mem_of_mem_drop hr), hothers]

/-- All the stale events, class list by class list. -/
def stalePool (s : State) : List Record := allClasses.flatMap (staleOf s.du.pool)

theorem mem_stalePool {s : State} {r : Record} : r ∈ stalePool s ↔ r ∈ s.du.pool ∧ r.isStale = true := by
  have hall : r.cls ∈ allClasses := (by decide : ∀ c : ClassNo, c ∈ allClasses) r.cls
  simp only [stalePool, List.mem_flatMap, mem_staleOf]
  exact ⟨fun ⟨_, _, hp, _, hs⟩ => ⟨hp, hs⟩, fun ⟨hp, hs⟩ => ⟨r.cls, hall, hp, rfl, hs⟩⟩

/-- No event is of two classes. -/
theorem stalePool_nodup {s : State} (h : s.du.pool.Nodup) : (stalePool s).Nodup := by
  have hclasses : allClasses.Pairwise (· ≠ ·) := by decide
  refine List.nodup_flatMap.2 ⟨fun c _ => h.filter _, hclasses.imp fun hcd => ?_⟩
  exact fun r hc hd => hcd ((mem_staleOf.1 hc).2.1.symm.trans (mem_staleOf.1 hd).2.1)

/-- The stale withdrawals are one event's withdrawals, and STALE if any is made. -/
theorem withdrawStale_eq {s : State} (hq : QueueLaw s) (ho : s.WaitingOnce) :
    s.withdrawStale =
      let u := s.withdrawn .stale (s.du.held.filter Record.isStale) (stalePool s)
      if s.anyStale then u.setCause .stale else u := by
  have hwaiting := List.nodup_append.1 (List.Nodup.of_map _ ho)
  have hheld := foldl_withdrawHeld s .stale s.du.pool (hwaiting.2.1.filter Record.isStale) [] ho
    (List.filter_subset_self _)
  rw [leaving_nil .stale hq.miss_bound, List.nil_append] at hheld
  have hfresh : ∀ r ∈ s.du.held.filter fun r => r ∉ s.du.held.filter Record.isStale, r.isStale = false := by
    intro r hr
    obtain ⟨hmem, hnot⟩ := List.mem_filter.1 hr
    exact Bool.eq_false_iff.2 fun hs => of_decide_eq_true hnot (List.mem_filter.2 ⟨hmem, hs⟩)
  have hclasses := foldl_withdrawStaleClass s (by decide : allClasses.Nodup) (s.du.held.filter Record.isStale)
    hq.pool_bound (List.Nodup.sublist ((List.filter_sublist.append_left s.du.pool).map Record.entry) ho) hfresh
  rw [← hheld] at hclasses
  have hall : allClasses.foldl State.withdrawStaleClass s.withdrawStaleHeld =
      s.withdrawn .stale (s.du.held.filter Record.isStale) (stalePool s) :=
    hclasses.trans (foldl_eq_withdrawn hq ho .stale (List.filter_subset_self _) (hwaiting.2.1.filter _)
      (fun r hr => (mem_stalePool.1 hr).1) (stalePool_nodup hwaiting.1))
  simp only [State.withdrawStale, hall]

/-- A record is withdrawn exactly when a waiting record is stale. -/
theorem anyStale_eq (s : State) :
    s.anyStale = decide (s.du.held.filter Record.isStale ++ stalePool s ≠ []) := by
  have hgone : s.anyStale = true ↔ ∃ r, r ∈ s.du.held.filter Record.isStale ++ stalePool s := by
    simp only [State.anyStale, Bool.or_eq_true, List.any_eq_true, List.mem_append, List.mem_filter, mem_stalePool,
      exists_or]
  rw [Bool.eq_iff_iff, hgone, decide_eq_true_iff, ne_eq, List.eq_nil_iff_forall_not_mem, not_forall_not]

/-- A set request that is sent or not. -/
theorem setCause_if (b : Bool) (u : State) (c : Cause) : (if b then u.setCause c else u) =
    { u with alert := { u.alert with causes := causeIf b u.alert.causes c } } := by
  cases b <;> rfl

/-- Settles O41: without the mark nothing is left to make, and with it the withdrawals are one event's. -/
theorem staleRecordsAreWithdrawnInOrder : Obligations.StaleRecordsAreWithdrawnInOrder := by
  intro s hlive
  have hstale (r : Record) : decide (r.staleLimit ≠ 0 ∧ r.staleLimit.toNat ≤ r.age.toNat) = r.isStale := by
    simp [Record.isStale, bne, beq_eq_decide]
  have hrow : exec .staleWithdrawal s = .next s.finishStale := live_eq hlive State.finishStale
  simp only [hstale, hrow]
  refine ⟨fun hmark => by simp [State.finishStale, hmark], fun hmark hq ho => ?_⟩
  have hq' : QueueLaw { s with du := { s.du with staleOwed := false } } := ⟨hq.1, hq.2, hq.3, hq.4, hq.5, hq.6, hq.7⟩
  rw [State.finishStale, if_pos hmark, withdrawStale_eq hq' ho, anyStale_eq]
  exact congrArg _ (setCause_if _ _ _)

/-! ## The two parts of a tick's rest come in either order (R88, R115)

The withdrawals read of the in-service stack only which entries have a record there, and the check of the service limits
changes no entry. -/

/-- The records in service replaced, the mark of the check set or cleared, and causes set. -/
def rechecked (s : State) (stack : List ServiceRecord) (owed : Bool) (m : Byte) : State :=
  { s with
    du := { s.du with stack := stack, overrunOwed := owed }
    alert := { s.alert with causes := s.alert.causes ||| m } }

/-- A change that keeps the records in service and reads no more of them than their entries. -/
structure ServiceBlind (f : State → State) : Prop where
  keeps : ∀ s, (f s).du.stack = s.du.stack
  blind : ∀ s stack owed m, stack.map ServiceRecord.entry = s.du.stack.map ServiceRecord.entry →
    f (rechecked s stack owed m) = rechecked (f s) stack owed m

namespace ServiceBlind

theorem comp {f g : State → State} (hg : ServiceBlind g) (hf : ServiceBlind f) : ServiceBlind fun s => g (f s) where
  keeps s := (hg.keeps _).trans (hf.keeps s)
  blind s stack owed m h := by
    show g (f (rechecked s stack owed m)) = _
    rw [hf.blind s stack owed m h, hg.blind (f s) stack owed m (h.trans (congrArg _ (hf.keeps s).symm))]

/-- The change may depend on what no check touches. -/
theorem view {β : Type} {g : State → β} (hg : ∀ s stack owed m, g (rechecked s stack owed m) = g s)
    {f : β → State → State} (hf : ∀ b, ServiceBlind (f b)) : ServiceBlind fun s => f (g s) s where
  keeps s := (hf (g s)).keeps s
  blind s stack owed m h := by
    show f (g (rechecked s stack owed m)) _ = _
    rw [hg, (hf (g s)).blind s stack owed m h]

theorem id : ServiceBlind fun s => s := ⟨fun _ => rfl, fun _ _ _ _ _ => rfl⟩

theorem foldl {α : Type} {f : State → α → State} (hf : ∀ a, ServiceBlind fun s => f s a) :
    ∀ l : List α, ServiceBlind fun s => l.foldl f s
  | [] => .id
  | a :: l => (foldl hf l).comp (hf a)

theorem setCause (c : Cause) : ServiceBlind fun s => s.setCause c :=
  ⟨fun _ => rfl, fun s _ _ m _ => by
    simp only [State.setCause, rechecked, BitVec.or_assoc, BitVec.or_comm m]⟩

theorem logMiss (r : MissRecord) : ServiceBlind fun s => s.logMiss r :=
  view (g := fun s => s.alert.missLog) (fun _ _ _ _ => rfl)
    (f := fun log s => if log.length < Config.missLogSize then
      { s with alert := { s.alert with missLog := log ++ [r] } } else s.setCause .missLost) fun log => by
    by_cases h : log.length < Config.missLogSize
    · simp only [if_pos h]
      exact ⟨fun _ => rfl, fun _ _ _ _ _ => rfl⟩
    · simp only [if_neg h]
      exact setCause .missLost

theorem releaseAfter (e : EntryNo) (line : Option OutLine) : ServiceBlind fun s => s.releaseAfter e line where
  keeps s := by simp
  blind s stack owed m h := by
    have hservice : stack.any (fun r => r.entry == e) = s.du.stack.any fun r => r.entry == e := by
      simpa [List.any_map, Function.comp_def] using congrArg (List.any · fun x => x == e) h
    have hrecord : (rechecked s stack owed m).hasRecord e = s.hasRecord e := by
      simp only [State.hasRecord, State.presence, Presence.any, State.hasService, rechecked, hservice]
      rfl
    unfold State.releaseAfter
    rw [hrecord]
    split
    · rfl
    · split <;> rfl

theorem refill : ServiceBlind State.refill where
  keeps s := (congrArg Prod.fst s.refill_rest :)
  blind s stack owed m _ := by
    rcases s.refill_cases with ⟨heq, hcase⟩ | ⟨x, xs, hx, hlt, heq⟩ <;> rw [heq]
    · rcases hcase with hnil | hfull
      · simp [State.refill, rechecked, hnil]
      · cases hh : s.du.held with
        | nil => simp [State.refill, rechecked, hh]
        | cons x xs => simp [State.refill, rechecked, hh, not_lt.2 hfull]
    · simp [State.refill, rechecked, hx, hlt]

theorem withdrawHeld (reason : MissReason) (r : Record) : ServiceBlind fun s => s.withdrawHeld reason r :=
  (releaseAfter r.entry r.pulseLine).comp ((logMiss (r.miss reason)).comp
    (f := fun s => { s with du := { s.du with held := s.du.held.erase r } }) ⟨fun _ => rfl, fun _ _ _ _ _ => rfl⟩)

theorem withdrawEvent (reason : MissReason) (r : Record) : ServiceBlind fun s => s.withdrawEvent reason r :=
  refill.comp ((releaseAfter r.entry r.pulseLine).comp ((logMiss (r.miss reason)).comp
    (f := fun s => { s with du := { s.du with pool := s.du.pool.erase r } }) ⟨fun _ => rfl, fun _ _ _ _ _ => rfl⟩))

theorem withdrawStale : ServiceBlind State.withdrawStale := by
  have hheld : ServiceBlind State.withdrawStaleHeld :=
    view (g := fun s => s.du.held.filter Record.isStale) (fun _ _ _ _ => rfl)
      fun l => foldl (fun r => withdrawHeld .stale r) l
  have hclass (c : ClassNo) : ServiceBlind fun s => s.withdrawStaleClass c :=
    view (g := fun s => (s.classList c).filter Record.isStale) (fun _ _ _ _ => rfl)
      fun l => foldl (fun r => withdrawEvent .stale r) l
  have hall := (foldl hclass allClasses).comp hheld
  refine view (g := State.anyStale) (fun _ _ _ _ => rfl) (f := fun b s =>
    if b then (allClasses.foldl State.withdrawStaleClass s.withdrawStaleHeld).setCause .stale
    else allClasses.foldl State.withdrawStaleClass s.withdrawStaleHeld) fun b => ?_
  cases b with
  | true => exact (setCause .stale).comp hall
  | false => exact hall

theorem finishStale : ServiceBlind State.finishStale := by
  refine view (g := fun s => s.du.staleOwed) (fun _ _ _ _ => rfl) (f := fun b s =>
    if b then ({ s with du := { s.du with staleOwed := false } } : State).withdrawStale else s) fun b => ?_
  cases b with
  | true =>
    exact withdrawStale.comp (f := fun s => { s with du := { s.du with staleOwed := false } })
      ⟨fun _ => rfl, fun _ _ _ _ _ => rfl⟩
  | false => exact id

end ServiceBlind

/-- The records in service after the check, if it is still to make. -/
def checkedStack (u : DispatchUnit) : List ServiceRecord :=
  if u.overrunOwed then u.stack.map fun r => if r.overruns u.limits then { r with overrunFlag := true } else r
  else u.stack

/-- The cause that the check sets, if it is still to make and marks a record. -/
def checkedCause (u : DispatchUnit) : Byte :=
  if u.overrunOwed && u.stack.any (ServiceRecord.overruns u.limits) then 1 <<< Cause.serviceOverrun.bit else 0

theorem checkedStack_entries (u : DispatchUnit) :
    (checkedStack u).map ServiceRecord.entry = u.stack.map ServiceRecord.entry := by
  unfold checkedStack
  split
  · rw [List.map_map]
    exact List.map_congr_left fun r _ => by
      dsimp only [Function.comp]
      split <;> rfl
  · rfl

theorem finishOverrun_eq (s : State) :
    s.finishOverrun = rechecked s (checkedStack s.du) false (checkedCause s.du) := by
  cases howed : s.du.overrunOwed with
  | false =>
    have hsame : s.finishOverrun = s := by simp [State.finishOverrun, howed]
    simp only [hsame, checkedStack, checkedCause, howed, rechecked, Bool.false_eq_true, if_false, Bool.false_and,
      BitVec.ofNat_eq_ofNat, BitVec.or_zero]
    rw [← howed]
  | true =>
    simp only [State.finishOverrun, State.checkService, checkedStack, checkedCause, howed, if_true, Bool.true_and]
    split
    · rfl
    · simp [rechecked]

theorem finishStale_finishOverrun (s : State) : s.finishOverrun.finishStale = s.finishTick := by
  have hrest := finishStale_rest s
  simp only [DispatchUnit.rest, Prod.mk.injEq] at hrest
  obtain ⟨hstack, -, -, hlimits, -, howed⟩ := hrest
  have hsame : checkedStack s.finishStale.du = checkedStack s.du ∧
      checkedCause s.finishStale.du = checkedCause s.du := by
    simp only [checkedStack, checkedCause, hstack, hlimits, howed, and_self]
  rw [State.finishTick, finishOverrun_eq, finishOverrun_eq s.finishStale, hsame.1, hsame.2]
  exact ServiceBlind.finishStale.blind s _ _ _ (checkedStack_entries s.du)

/-- With no withdrawals left to make there are none. -/
theorem finishStale_idem (s : State) : s.finishStale.finishStale = s.finishStale := by
  have hrest := finishStale_rest s
  simp only [DispatchUnit.rest, Prod.mk.injEq] at hrest
  obtain ⟨-, -, -, -, hmark, -⟩ := hrest
  rw [State.finishStale.eq_def s.finishStale, if_neg (by simp [hmark])]

theorem finishOverrun_idem (s : State) : s.finishOverrun.finishOverrun = s.finishOverrun := by
  have hmark : s.finishOverrun.du.overrunOwed = false := by rw [finishOverrun_eq, rechecked]
  rw [State.finishOverrun.eq_def s.finishOverrun, if_neg (by simp [hmark])]

/-! ## Changes that come to the same before and after a tick's rest

`Framed` changes neither read nor write the dispatch unit, the alert unit and the output lines. `TickBlind` changes leave
the same, once a tick's rest is taken, whether it was taken before them or not. -/

/-- The dispatch unit, the alert unit and the output lines replaced. -/
def patch (s : State) (d : DispatchUnit) (a : AlertUnit) (o : Vector OutputLine 8) : State :=
  { s with du := d, alert := a, line := { s.line with outs := o } }

/-- A change that neither reads nor writes what `patch` replaces. -/
def Framed (f : State → State) : Prop := ∀ s d a o, f (patch s d a o) = patch (f s) d a o

/-- A change after which the rest of a tick leaves the same, taken before or not. -/
def TickBlind (f : State → State) : Prop := ∀ s, (f s).finishTick = (f s.finishTick).finishTick

/-- What is left of a tick leaves the input lines and the captures. -/
theorem finishTick_inputs (s : State) :
    s.finishTick.line.ins = s.line.ins ∧ s.finishTick.line.captures = s.line.captures := by
  obtain ⟨d, log, m, gone, h⟩ := Withdrawing.finishTick s.du s.alert.missLog
  rw [h s rfl rfl]
  exact ⟨rfl, rfl⟩

@[simp] theorem finishTick_ins (s : State) : s.finishTick.line.ins = s.line.ins := (finishTick_inputs s).1
@[simp] theorem finishTick_captures (s : State) : s.finishTick.line.captures = s.line.captures :=
  (finishTick_inputs s).2
@[simp] theorem finishTick_entry (s : State) (e : EntryNo) : s.finishTick.entry e = s.entry e := by simp [State.entry]

namespace Framed

variable {f g : State → State}

theorem comp (hg : Framed g) (hf : Framed f) : Framed fun s => g (f s) := fun s d a o => by
  show g (f (patch s d a o)) = _
  rw [hf, hg]

/-- The change may depend on what is not replaced. -/
theorem view {β : Type} {v : State → β} (hv : ∀ s d a o, v (patch s d a o) = v s) {f : β → State → State}
    (hf : ∀ b, Framed (f b)) : Framed fun s => f (v s) s := fun s d a o => by
  show f (v (patch s d a o)) _ = _
  rw [hv, hf]

theorem foldl {α : Type} {f : State → α → State} (hf : ∀ a, Framed fun s => f s a) :
    ∀ l : List α, Framed fun s => l.foldl f s
  | [] => fun _ _ _ _ => rfl
  | a :: l => (foldl hf l).comp (hf a)

/-- The change is made or not. -/
theorem onlyIf {p : State → Prop} [DecidablePred p] (hp : ∀ s d a o, p (patch s d a o) ↔ p s) (hf : Framed f)
    (hg : Framed g) : Framed fun s => if p s then f s else g s := fun s d a o => by
  by_cases h : p s
  · simp only [if_pos h, if_pos ((hp s d a o).2 h), hf s d a o]
  · simp only [if_neg h, if_neg (mt (hp s d a o).1 h), hg s d a o]

theorem id : Framed fun s => s := fun _ _ _ _ => rfl

end Framed

/-! ### The list controller's changes -/

theorem framed_endWork : Framed State.endWork := fun _ _ _ _ => rfl

theorem framed_setWork (w : Work) : Framed fun s => s.setWork w := fun _ _ _ _ => rfl

theorem framed_wake : Framed State.wake :=
  .onlyIf (p := fun s => s.lc.work = .rest) (fun _ _ _ _ => .rfl) framed_endWork .id

theorem framed_settle : Framed State.settle :=
  .onlyIf (p := fun s => s.atEnd = true) (fun _ _ _ _ => .rfl) framed_endWork .id

theorem framed_setEntry (e : EntryNo) (en : Entry) : Framed fun s => s.setEntry e en := fun _ _ _ _ => rfl

theorem framed_insertDue (e : EntryNo) (t : Word) : Framed fun s => s.insertDue e t := fun _ _ _ _ => rfl

theorem framed_removeDue (e : EntryNo) : Framed fun s => s.removeDue e := fun _ _ _ _ => rfl

theorem framed_disarm (e : EntryNo) : Framed fun s => s.disarm e :=
  .onlyIf (p := fun s => (s.entry e).timing = .armed) (fun _ _ _ _ => .rfl) (framed_removeDue e) .id

theorem framed_freshArm (e : EntryNo) (t : Word) : Framed fun s => s.freshArm e t :=
  Framed.comp (g := fun u =>
      u.setEntry e { u.entry e with occurrence := 0, remaining := (u.entry e).defn.firstRemaining })
    (fun _ _ _ _ => rfl) ((framed_insertDue e t).comp (framed_disarm e))

theorem framed_policyArm (e : EntryNo) (origin : Word) : Framed fun s => s.policyArm e origin :=
  .view (v := fun s => s.entry e) (fun _ _ _ _ => rfl)
    (f := fun en s => if en.takesArm then s.freshArm e (origin + en.defn.delay) else s)
    fun _ => .onlyIf (fun _ _ _ _ => .rfl) (framed_freshArm e _) .id

theorem framed_continueSeries (d : Definition) (e : EntryNo) (saved : Half) (due : Word) :
    Framed fun s => s.continueSeries d e saved due := by
  refine .onlyIf (p := fun _ => d.continues saved = true) (fun _ _ _ _ => .rfl) (fun _ _ _ _ => rfl) ?_
  cases d.followOn with
  | none => exact .id
  | some f => exact framed_policyArm f due

theorem framed_expire (e : EntryNo) : Framed fun s => s.expire e :=
  .view (v := fun s => (s.entry e, s.dueOf e)) (fun _ _ _ _ => rfl)
    (f := fun v s =>
      (((s.removeDue e).setEntry e { (s.removeDue e).entry e with occurrence := v.1.occurrence + 1 }).issue
        v.1.defn e (v.1.occurrence + 1) v.2).continueSeries v.1.defn e v.1.remaining v.2)
    fun v => (framed_continueSeries v.1.defn e v.1.remaining v.2).comp (fun _ _ _ _ => rfl)

theorem framed_runExpiry (limit : Word) : Framed fun s => s.runExpiry limit :=
  .view (v := fun s => s.dueHead limit) (fun _ _ _ _ => rfl)
    (f := fun h s => match h with | some e => s.expire e | none => s) fun h => by
      cases h with
      | none => exact .id
      | some e => exact framed_expire e

theorem framed_startRun : Framed State.startRun :=
  .view (v := fun s => s.time.count) (fun _ _ _ _ => rfl)
    (f := fun n s => (({ s with lc := { s.lc with owed := false } } : State).runExpiry n).setWork (.run (some n)))
    fun n => (framed_setWork _).comp ((framed_runExpiry n).comp (fun _ _ _ _ => rfl))

theorem framed_fillLatch (n : InLine) (t : Word) : Framed fun s => s.fillLatch n t :=
  .view (v := fun s => s.lc.latches[n]) (fun _ _ _ _ => rfl)
    (f := fun l s => match l with | some _ => s | none => s.setLatch n (some t)) fun l => by
      cases l with
      | none => exact fun _ _ _ _ => rfl
      | some _ => exact .id

theorem framed_triggerArm (x : EntryNo) (edge : Word) : Framed fun s => s.triggerArm x edge :=
  .onlyIf (p := fun s => ((s.entry x).takesArm && isDue (edge + (s.entry x).defn.delay) s.time.count) = true)
    (fun _ _ _ _ => .rfl) (Framed.comp (g := State.oweRun) (fun _ _ _ _ => rfl) (framed_policyArm x edge))
    (framed_policyArm x edge)

theorem framed_serveLatch (n : InLine) : Framed fun s => s.serveLatch n :=
  .view (v := fun s => (s.lc.latches[n], s.trigger n)) (fun _ _ _ _ => rfl)
    (f := fun v s => match v.1, v.2 with
      | some t, some x => (s.setLatch n none).triggerArm x t
      | _, _ => s.setLatch n none)
    fun v => by
      obtain ⟨l, x⟩ := v
      have hempty : Framed fun s => s.setLatch n none := fun _ _ _ _ => rfl
      cases l with
      | none => exact hempty
      | some t => cases x with
        | none => exact hempty
        | some x => exact (framed_triggerArm x t).comp hempty

theorem framed_writeOperation (code : Byte) : Framed fun s => s.writeOperation code :=
  .view (v := fun s => s.lc.slot) (fun _ _ _ _ => rfl)
    (f := fun slot s => match slot with
      | none => ({ s with lc := { s.lc with
          slot := some { code := code, image := s.win.staging, entrySelect := s.win.entrySelect } } } : State).wake
      | some _ => { s with win := { s.win with collision := true } }) fun slot => by
      cases slot with
      | none => exact framed_wake.comp fun _ _ _ _ => rfl
      | some _ => exact fun _ _ _ _ => rfl

theorem framed_armIf (r : Result) (op : HostOp) (t : EntryNo → Word) : Framed fun s => s.armIf r op t := by
  unfold State.armIf
  cases op.entry? with
  | none => cases r <;> exact .id
  | some e => cases r with
    | complete => exact framed_freshArm e (t e)
    | _ => exact .id

theorem framed_clearWalk (c : ClassNo) : Framed fun s => s.clearWalk c :=
  .view (v := fun s => s.lc.dueList.filter fun e => (s.entry e).defn.cls == c) (fun _ _ _ _ => rfl)
    fun l => .foldl framed_removeDue l

theorem framed_shiftWalk (d : Word) : Framed fun s => s.shiftWalk d :=
  .view (v := fun s => s.lc.dueList) (fun _ _ _ _ => rfl)
    fun l => .foldl (fun _ _ _ _ _ => rfl) l

theorem framed_sendLineConfig (op : HostOp) : Framed fun s => s.sendLineConfig op := by
  unfold State.sendLineConfig
  cases op.lineConfig? with
  | none => exact .id
  | some v => exact fun _ _ _ _ => rfl

theorem framed_takeListTick : Framed State.takeListTick := framed_wake.comp fun _ _ _ _ => rfl

theorem framed_tbclk : Framed State.tbclk :=
  .onlyIf (p := fun s => s.time.run = true) (fun _ _ _ _ => .rfl)
    (.onlyIf (p := fun s => s.time.lastEdge = true) (fun _ _ _ _ => .rfl) (fun _ _ _ _ => rfl) fun _ _ _ _ => rfl) .id

/-! ### What leaves the same before and after a tick's rest -/

/-- A change that a tick's rest passes. -/
theorem TickBlind.of_comm {f : State → State} (h : ∀ s, (f s).finishTick = f s.finishTick) : TickBlind f := fun s => by
  rw [h, h, State.finishTick_idem]

theorem Framed.tickBlind {f : State → State} (hf : Framed f) : TickBlind f := by
  have hkeep (s : State) : f s = patch (f s) s.du s.alert s.line.outs := hf s s.du s.alert s.line.outs
  refine .of_comm (State.finishTick_comm (fun s => ?_) (fun s => ?_) fun s d log m gone => ?_)
  · rw [hkeep]
    rfl
  · rw [hkeep]
    rfl
  · refine (hf s d { s.alert with missLog := log, causes := s.alert.causes ||| m } _).trans ?_
    rw [hkeep s]
    rfl

namespace TickBlind

variable {f g : State → State}

theorem comp (hg : TickBlind g) (hf : TickBlind f) : TickBlind fun s => g (f s) := fun s => by
  show (g (f s)).finishTick = (g (f s.finishTick)).finishTick
  rw [hg, hf, ← hg]

/-- The change may depend on what a tick's rest leaves. -/
theorem view {β : Type} {v : State → β} (hv : ∀ s, v s.finishTick = v s) {f : β → State → State}
    (hf : ∀ b, TickBlind (f b)) : TickBlind fun s => f (v s) s := fun s => by
  show (f (v s) s).finishTick = (f (v s.finishTick) _).finishTick
  rw [hv]
  exact hf (v s) s

/-- The change is made or not. -/
theorem onlyIf {p : State → Prop} [DecidablePred p] (hp : ∀ s, p s.finishTick ↔ p s) (hf : TickBlind f)
    (hg : TickBlind g) : TickBlind fun s => if p s then f s else g s := fun s => by
  by_cases h : p s
  · simp only [if_pos h, if_pos ((hp s).2 h)]
    exact hf s
  · simp only [if_neg h, if_neg (mt (hp s).1 h)]
    exact hg s

/-- The change takes a tick's rest first. -/
theorem of_takes (h : ∀ s, f s.finishTick = f s) : TickBlind f := fun s => by rw [h]

theorem id : TickBlind fun s => s := fun s => by simp

theorem setCause (c : Cause) : TickBlind fun s => s.setCause c :=
  .of_comm (State.finishTick_comm (fun _ => rfl) (fun _ => rfl) fun s d log m gone => by
    simp only [State.setCause, State.withdrawTo, BitVec.or_assoc, BitVec.or_comm m])

theorem complete (r : Result) : TickBlind fun s => s.complete r :=
  framed_endWork.tickBlind.comp ((setCause .opComplete).comp
    (Framed.tickBlind (f := fun s => { s with lc := { s.lc with opResult := r, slot := none } }) fun _ _ _ _ => rfl))

/-- A completion after the list controller's part. -/
theorem completeAfter (hf : Framed f) (r : Result) : TickBlind fun s => (f s).complete r :=
  (complete r).comp hf.tickBlind

end TickBlind

/-! ### The requests, which take a tick's rest first -/

theorem takeAllPosts_finishTick (s : State) : s.finishTick.takeAllPosts = s.takeAllPosts := by
  simp only [State.takeAllPosts, State.finishTick_idem]

theorem takeNextPost_finishTick {s : State} (h : s.link.posts ≠ []) : s.finishTick.takeNextPost = s.takeNextPost := by
  obtain ⟨p, ps, hposts⟩ := List.exists_cons_of_ne_nil h
  rw [takeNextPost_cons hposts, takeNextPost_cons (s := s.finishTick) (by simpa using hposts), State.finishTick_idem]

/-- What the list controller does before it sends a request does not touch a tick's rest. -/
theorem takeAllPosts_after {f : State → State} (hf : Framed f) (s : State) :
    (f s.finishTick).takeAllPosts = (f s).takeAllPosts := by
  rw [← takeAllPosts_finishTick, ← hf.tickBlind, takeAllPosts_finishTick]

theorem carryCancel_finishTick (s : State) (op : HostOp) (e : EntryNo) :
    s.finishTick.carryCancel op e = s.carryCancel op e := by
  simp only [State.carryCancel, State.sendCancel, takeAllPosts_after (framed_disarm e), finishTick_entry]

theorem carryClear_finishTick (s : State) (c : ClassNo) : s.finishTick.carryClear c = s.carryClear c := by
  simp only [State.carryClear, takeAllPosts_after (framed_clearWalk c)]

theorem takeLimit_finishTick (s : State) (c : ClassNo) (limit : Half) :
    s.finishTick.takeLimit c limit = s.takeLimit c limit := by
  simp only [State.takeLimit, State.finishTick_idem]

theorem doSetTime_finishTick (s : State) (op : HostOp) : s.finishTick.doSetTime op = s.doSetTime op := by
  simp only [State.doSetTime, takeAllPosts_finishTick]

theorem control_finishTick (s : State) (b : Byte) : s.finishTick.control b = s.control b := by
  simp only [State.control, State.finishTick_idem]

theorem writeDone_finishTick (s : State) (b : Byte) : s.finishTick.writeDone b = s.writeDone b := by
  simp only [State.writeDone, State.finishTick_idem]

theorem writeMask_finishTick (s : State) (b : Byte) : s.finishTick.writeMask b = s.writeMask b := by
  simp only [State.writeMask, State.finishTick_idem]

theorem alertClear_finishTick (s : State) (b : Byte) : s.finishTick.alertClear b = s.alertClear b := by
  simp only [State.alertClear, State.finishTick_idem]

theorem readVector_finishTick (s : State) : s.finishTick.readVector = s.readVector := by
  simp only [State.readVector, State.finishTick_idem]

theorem readView_finishTick (s : State) : s.finishTick.readView = s.readView := by
  simp only [State.readView, State.finishTick_idem]

/-! ### The operations' checks, which read none of what a tick's rest changes -/

@[simp] theorem checkDefined_finishTick (s : State) (op : HostOp) :
    s.finishTick.checkDefined op = s.checkDefined op := by
  simp only [State.checkDefined, finishTick_entry]

@[simp] theorem checkArmAt_finishTick (s : State) (op : HostOp) : s.finishTick.checkArmAt op = s.checkArmAt op := by
  simp only [State.checkArmAt, checkDefined_finishTick, State.finishTick_time]

@[simp] theorem checkDefine_finishTick (s : State) (e : EntryNo) (i : Image) :
    s.finishTick.checkDefine e i = s.checkDefine e i := by
  simp only [State.checkDefine, finishTick_entry]

@[simp] theorem checkConfigureLine_finishTick (s : State) (op : HostOp) :
    s.finishTick.checkConfigureLine op = s.checkConfigureLine op := by
  simp only [State.checkConfigureLine, finishTick_entry]

@[simp] theorem referenced_finishTick (s : State) (e : EntryNo) : s.finishTick.referenced e = s.referenced e := by
  simp only [State.referenced, State.trigger, finishTick_entry, finishTick_ins]

@[simp] theorem queryTarget_finishTick (s : State) : s.finishTick.queryTarget = s.queryTarget := by
  simp only [State.queryTarget, finishTick_entry, State.finishTick_lc]

@[simp] theorem inProgress_finishTick (s : State) (n : OpName) : s.finishTick.inProgress n = s.inProgress n := by
  simp only [State.inProgress, State.finishTick_lc]

/-- A presence answer that is kept needs no query, and a query takes a tick's rest first. -/
theorem afterQuery_cases (ph : OpPhase) :
    (∃ p, ph = .presence p) ∨ ∀ s : State, s.afterQuery ph = s.takeAllPosts := by
  cases ph with
  | presence p => exact .inl ⟨p, rfl⟩
  | started => exact .inr fun _ => rfl
  | carriedOut r => exact .inr fun _ => rfl
  | adjusting d => exact .inr fun _ => rfl

/-! ### The host operations -/

theorem tickBlind_doDefine (op : HostOp) (ph : OpPhase) : TickBlind fun s => s.doDefine op ph := by
  unfold State.doDefine
  cases op.entry? with
  | none => exact .complete _
  | some e =>
    refine .onlyIf (p := fun s => (s.entry e).timing = .armed) (fun s => by simp) (.complete _) ?_
    rcases afterQuery_cases ph with ⟨p, rfl⟩ | hq
    · refine .onlyIf (p := fun _ => p.any = true) (fun _ => .rfl) (.complete _) ?_
      refine .view (v := fun s => s.checkDefine e op.image) (fun s => by simp) (f := fun r s => match r with
        | .complete => (s.setEntry e (.defined (decodeDefinition op.image))).complete .complete
        | r => s.complete r) fun r => ?_
      cases r with
      | complete => exact .completeAfter (framed_setEntry e _) _
      | _ => exact .complete _
    · simp only [hq]
      exact .of_takes fun s => by simp only [takeAllPosts_finishTick]

theorem tickBlind_doRelease (op : HostOp) (ph : OpPhase) : TickBlind fun s => s.doRelease op ph := by
  unfold State.doRelease
  cases op.entry? with
  | none => exact .complete _
  | some e =>
    refine .view (v := fun s => (s.entry e).timing) (fun s => by simp) (f := fun timing s => match timing with
      | .free => s.complete .entryFree
      | .armed => s.complete .entryArmed
      | .idle =>
        let t := s.afterQuery ph
        if (t.answer ph e).any then t.complete .entryHasEvents
        else if t.referenced e then t.complete .referenced
        else (t.setEntry e .free).complete .complete) fun timing => ?_
    cases timing with
    | free => exact .complete _
    | armed => exact .complete _
    | idle =>
      rcases afterQuery_cases ph with ⟨p, rfl⟩ | hq
      · exact .onlyIf (p := fun _ => p.any = true) (fun _ => .rfl) (.complete _)
          (.onlyIf (p := fun s => s.referenced e = true) (fun s => by simp) (.complete _)
            (.completeAfter (framed_setEntry e _) _))
      · simp only [hq]
        exact .of_takes fun s => by simp only [takeAllPosts_finishTick]

/-- A read operation writes its image and completes. -/
theorem tickBlind_completeRead (i : Image) : TickBlind fun s => s.completeRead i :=
  .completeAfter (f := fun s => { s with win := { s.win with staging := i } }) (fun _ _ _ _ => rfl) .complete

theorem tickBlind_doReadDefinition (op : HostOp) : TickBlind fun s => s.doReadDefinition op := by
  unfold State.doReadDefinition
  cases op.entry? with
  | none => exact .complete _
  | some e =>
    exact .view (v := fun s => s.entry e) (fun s => by simp)
      (f := fun en s => if en.timing = .free then s.complete .entryFree else s.completeRead (encodeDefinition en.defn))
      fun en => .onlyIf (fun _ => .rfl) (.complete _) (tickBlind_completeRead _)

theorem tickBlind_doReadState (op : HostOp) (ph : OpPhase) : TickBlind fun s => s.doReadState op ph := by
  unfold State.doReadState
  cases op.entry? with
  | none => exact .complete _
  | some e =>
    rcases afterQuery_cases ph with ⟨p, rfl⟩ | hq
    · exact .view (v := fun s => s.entry e) (fun s => by simp) (f := fun en s => s.completeRead (encodeState en p))
        fun en => tickBlind_completeRead _
    · simp only [hq]
      exact .of_takes fun s => by simp only [takeAllPosts_finishTick]

theorem tickBlind_doArm (op : HostOp) (ph : OpPhase) (span : Span) (r : Result) (t : EntryNo → Word) :
    TickBlind fun s => s.doArm op ph span r t := by
  have harm : TickBlind fun s => match span with
      | .whole => (s.armIf r op t).complete r
      | .carryOut => (s.armIf r op t).setWork (.operation (.carriedOut r)) := by
    cases span with
    | whole => exact .completeAfter (framed_armIf r op t) r
    | carryOut => exact ((framed_setWork _).comp (framed_armIf r op t)).tickBlind
  cases ph with
  | carriedOut r' => exact .complete r'
  | started => exact harm
  | presence p => exact harm
  | adjusting d => exact harm

theorem tickBlind_doCancel (op : HostOp) (ph : OpPhase) : TickBlind fun s => s.doCancel op ph := by
  refine .view (v := fun s => s.checkDefined op) (fun s => by simp) (f := fun r s => match ph, r, op.entry? with
    | .carriedOut r, _, _ => s.complete r
    | _, .complete, some e => (s.carryCancel op e).1.complete (s.carryCancel op e).2
    | _, r, _ => s.complete r) fun r => ?_
  cases ph with
  | carriedOut r' => exact .complete r'
  | _ => cases op.entry? with
    | none => cases r <;> exact .complete _
    | some e => cases r with
      | complete => exact .of_takes fun s => by simp only [carryCancel_finishTick]
      | _ => exact .complete _

theorem tickBlind_doClearClass (op : HostOp) (ph : OpPhase) : TickBlind fun s => s.doClearClass op ph := by
  unfold State.doClearClass
  cases ph with
  | carriedOut r => exact .complete r
  | _ => cases op.class? with
    | none => exact .complete _
    | some c => exact .of_takes fun s => by simp only [carryClear_finishTick]

theorem tickBlind_doWalkCompletion (ph : OpPhase) : TickBlind fun s => s.doWalkCompletion ph := by
  cases ph with
  | adjusting d => exact .completeAfter (framed_shiftWalk d) .complete
  | started => exact .id
  | presence p => exact .id
  | carriedOut r => exact .id

theorem tickBlind_doConfigureLine (op : HostOp) (ph : OpPhase) : TickBlind fun s => s.doConfigureLine op ph := by
  refine .view (v := fun s => s.checkConfigureLine op) (fun s => by simp) (f := fun r s => match ph with
    | .carriedOut r => s.complete r
    | _ => match r with
      | .complete => (s.sendLineConfig op).complete .complete
      | r => s.complete r) fun r => ?_
  cases ph with
  | carriedOut r' => exact .complete r'
  | _ => cases r with
    | complete => exact .completeAfter (framed_sendLineConfig op) _
    | _ => exact .complete _

theorem tickBlind_doConfigureClass (op : HostOp) (ph : OpPhase) : TickBlind fun s => s.doConfigureClass op ph := by
  unfold State.doConfigureClass
  cases ph with
  | carriedOut r => exact .complete r
  | _ => cases op.class? with
    | none => exact .complete _
    | some c => exact .of_takes fun s => by simp only [takeLimit_finishTick]

/-! ### The lines and the other arrivals -/

/-- A change of output lines, one by one, that treats all members of a holder set alike. -/
theorem tickBlind_outs (g : Nat → OutputLine → OutputLine)
    (hg : ∀ i (o : OutputLine) (keep : EntryNo → Bool), g i { o with holders := o.holders.filter keep } =
      { g i o with holders := (g i o).holders.filter keep }) :
    TickBlind fun s => { s with line := { s.line with outs := s.line.outs.mapFinIdx fun i o _ => g i o } } :=
  .of_comm (State.finishTick_comm (fun _ => rfl) (fun _ => rfl) fun s d log m gone => by
    simp only [State.withdrawTo, State.mk.injEq, LineUnit.mk.injEq, true_and, and_true]
    ext i hi : 1
    simp only [Vector.getElem_mapFinIdx]
    exact hg i _ _)

theorem tickBlind_outputSet (b : Byte) : TickBlind fun s => s.outputSet b :=
  tickBlind_outs (fun i o => if b.getLsbD i then { o with base := true } else o) fun i o keep => by
    by_cases h : b.getLsbD i = true
    · simp only [if_pos h]
    · simp only [if_neg h]

theorem tickBlind_outputClear (b : Byte) : TickBlind fun s => s.outputClear b :=
  tickBlind_outs (fun i o => if b.getLsbD i then { base := false, holders := [] } else o) fun i o keep => by
    by_cases h : b.getLsbD i = true
    · simp only [if_pos h, List.filter_nil]
    · simp only [if_neg h]

/-- A change of one base level. -/
theorem tickBlind_setBase (l : OutLine) (b : Bool → Bool) :
    TickBlind fun s => s.setOut l { s.line.outs[l] with base := b (s.line.outs[l]).base } := by
  have hmap (s : State) : s.setOut l { s.line.outs[l] with base := b (s.line.outs[l]).base } =
      { s with line := { s.line with outs := s.line.outs.mapFinIdx fun i o _ =>
          if i = l.val then { o with base := b o.base } else o } } := by
    simp only [State.setOut, State.mk.injEq, LineUnit.mk.injEq, true_and, and_true]
    ext i hi : 1
    by_cases h : l.val = i
    · subst h
      simp
    · simp [Vector.getElem_set_ne, h, Ne.symm h]
  simp only [hmap]
  refine tickBlind_outs (fun i o => if i = l.val then { o with base := b o.base } else o) fun i o keep => ?_
  by_cases h : i = l.val
  · simp only [if_pos h]
  · simp only [if_neg h]

/-- An action request is a change of one base level, or a PULSE, which takes a tick's rest first. -/
theorem tickBlind_takeNextAction : TickBlind State.takeNextAction := by
  have hlink (as : List ActionReq) : Framed fun s => { s with link := { s.link with actions := as } } :=
    fun _ _ _ _ => rfl
  refine .view (v := fun s => s.link.actions) (fun s => by simp) (f := fun as s => match as with
    | [] => s
    | .pulse l e :: as =>
      let t := s.finishTick
      let q := splitPost t.link.posts
      (q.1.foldl State.postCase { t with link := { t.link with posts := q.2, actions := as } }).perform (.pulse l e)
    | a :: as => ({ s with link := { s.link with actions := as } } : State).perform a) fun as => ?_
  cases as with
  | nil => exact .id
  | cons a as =>
    have base (l : OutLine) (b : Bool → Bool) := (tickBlind_setBase l b).comp (hlink as).tickBlind
    cases a with
    | set l => exact base l fun _ => true
    | clear l => exact base l fun _ => false
    | toggle l => exact base l not
    | pulse l e => exact .of_takes fun s => by simp only [State.finishTick_idem]

theorem tickBlind_takeNextPost : TickBlind State.takeNextPost := fun s => by
  by_cases h : s.link.posts = []
  · have h' : s.finishTick.link.posts = [] := by simpa using h
    simp only [State.takeNextPost, h, h', State.finishTick_idem]
  · rw [takeNextPost_finishTick h]

theorem tickBlind_capture (r : CaptureRecord) : TickBlind fun s => s.capture r := by
  have hjoin : Framed fun s => { s with line := { s.line with captures := s.line.captures ++ [r] } } :=
    fun _ _ _ _ => rfl
  refine .onlyIf (p := fun s => s.line.captures.length < Config.captureQueueSize) (fun s => by simp) ?_ (.setCause _)
  exact .onlyIf (p := fun s => s.line.captures.isEmpty = true) (fun s => by simp)
    ((TickBlind.setCause .captureReady).comp hjoin.tickBlind) hjoin.tickBlind

/-- What a recognized edge on a line leaves, by the line as it stands and the time. -/
theorem tickBlind_recognize (n : InLine) (level : Bool) : TickBlind fun s => s.recognize n level := by
  refine .view (v := fun s => (s.line.ins[n], s.time)) (fun s => by simp) (f := fun v s =>
    let t := s.setIn n { v.1 with counter := v.1.cfg.holdOff }
    let u := if v.1.cfg.captureOn then
        t.capture { line := n, edge := .ofLevel level, count := v.2.count, phase := v.2.phase }
      else t
    if v.1.cfg.trigger.isSome then (u.fillLatch n v.2.count).wake else u) fun v => ?_
  obtain ⟨i, time⟩ := v
  have hset : Framed fun s => s.setIn n { i with counter := i.cfg.holdOff } := fun _ _ _ _ => rfl
  have hrecord : TickBlind fun s => if i.cfg.captureOn = true then
      (s.setIn n { i with counter := i.cfg.holdOff }).capture
        { line := n, edge := .ofLevel level, count := time.count, phase := time.phase }
      else s.setIn n { i with counter := i.cfg.holdOff } :=
    .onlyIf (p := fun _ => i.cfg.captureOn = true) (fun _ => .rfl)
      ((tickBlind_capture _).comp hset.tickBlind) hset.tickBlind
  exact .onlyIf (p := fun _ => i.cfg.trigger.isSome = true) (fun _ => .rfl)
    ((framed_wake.comp (framed_fillLatch n time.count)).tickBlind.comp hrecord) hrecord

theorem tickBlind_takeChange (n : InLine) (level : Bool) : TickBlind fun s => s.takeChange n level := by
  refine .view (v := fun s => s.line.ins[n]) (fun s => by simp) (f := fun i s => if i.lastLevel = level then s else
    if (i.cfg.edgeSelect.admits level && i.counter == 0) = true then
      (s.setIn n { i with lastLevel := level }).recognize n level
    else s.setIn n { i with lastLevel := level }) fun i => ?_
  have hset : Framed fun s => s.setIn n { i with lastLevel := level } := fun _ _ _ _ => rfl
  exact .onlyIf (fun _ => .rfl) .id
    (.onlyIf (fun _ => .rfl) ((tickBlind_recognize n level).comp hset.tickBlind) hset.tickBlind)

theorem tickBlind_alertEnable (b : Byte) : TickBlind fun s => s.alertEnable b :=
  .of_comm (State.finishTick_comm (fun _ => rfl) (fun _ => rfl) fun _ _ _ _ _ => rfl)

theorem tickBlind_busWrite (a : WinAddr) (b : Byte) : TickBlind fun s => s.busWrite a b := by
  have framed {f : State → State} (hf : Framed f) : TickBlind f := hf.tickBlind
  unfold State.busWrite
  split
  · exact .of_takes fun s => control_finishTick s b
  · exact framed (framed_writeOperation b)
  · exact framed fun _ _ _ _ => rfl
  · exact framed fun _ _ _ _ => rfl
  · exact framed fun _ _ _ _ => rfl
  · exact .of_takes fun s => writeDone_finishTick s b
  · exact framed fun _ _ _ _ => rfl
  · exact .id
  · exact .of_takes fun s => writeMask_finishTick s b
  · exact .of_takes fun s => alertClear_finishTick s b
  · exact tickBlind_alertEnable b
  · exact tickBlind_outputSet b
  · exact tickBlind_outputClear b
  · exact framed fun _ _ _ _ => rfl
  · exact framed fun _ _ _ _ => rfl
  · exact framed fun _ _ _ _ => rfl

/-- The rest of a tick is the same with its withdrawals made. -/
theorem finishTick_finishStale (s : State) : s.finishStale.finishTick = s.finishTick := by
  rw [State.finishTick, finishStale_idem, State.finishTick]

/-- And with its check made. -/
theorem finishTick_finishOverrun (s : State) : s.finishOverrun.finishTick = s.finishTick := by
  rw [State.finishTick, finishStale_finishOverrun, State.finishTick, finishOverrun_idem]

theorem tickBlind_finishStale : TickBlind State.finishStale := fun s => by
  rw [finishTick_finishStale, finishTick_finishStale, State.finishTick_idem]

theorem tickBlind_finishOverrun : TickBlind State.finishOverrun := fun s => by
  rw [finishTick_finishOverrun, finishTick_finishOverrun, State.finishTick_idem]

/-! ### Every command -/

namespace TickBlind

variable {f : State → State}

/-- A command that RESET* holds off. -/
theorem live (hf : TickBlind f) : TickBlind (whenLive f) :=
  .onlyIf (p := fun s => s.win.resetAsserted = true) (fun s => by simp) .id hf

/-- A row of the controller's work. -/
theorem work {c : Instr} (hc : ∀ s, exec c s = liveWork s f) (hf : TickBlind f) : TickBlind (effect c) := by
  rw [effect_of_work hc]
  exact live (hf.comp framed_settle.tickBlind)

/-- A row of an operation: its step, or nothing. -/
theorem operation {c : Instr} {n : OpName} {f : State → HostOp → OpPhase → State}
    (hc : ∀ s, exec c s = liveWork s fun s => s.onOperation n (f s))
    (hf : ∀ op ph, TickBlind fun s => f s op ph) : TickBlind (effect c) := by
  refine work hc (.view (v := fun s => s.inProgress n) (fun s => by simp)
    (f := fun o s => match o with | some (op, ph) => f s op ph | none => s) fun o => ?_)
  cases o with
  | none => exact .id
  | some o => exact hf o.1 o.2

end TickBlind

theorem effect_tickBlind (c : Instr) : TickBlind (effect c) := by
  have framed {f : State → State} (hf : Framed f) : TickBlind (whenLive f) := hf.tickBlind.live
  have takes {f : State → State} (hf : ∀ s, f s.finishTick = f s) : TickBlind (whenLive f) :=
    (TickBlind.of_takes hf).live
  cases c with
  | tbclkEdge => exact framed framed_tbclk
  | tick =>
    exact framed (.onlyIf (p := fun s => (s.time.run && s.time.lastEdge) = true) (fun _ _ _ _ => .rfl)
      (f := State.makeTick) (fun _ _ _ _ => rfl) .id)
  | listControllerTick =>
    exact framed (.onlyIf (p := fun s => s.link.ticksToList = 0) (fun _ _ _ _ => .rfl) .id framed_takeListTick)
  | dispatchTick =>
    exact TickBlind.live (.onlyIf (p := fun s => s.link.ticksToDispatch = 0) (fun s => by simp) .id
      (.of_takes fun s => by simp only [State.takeDispatchTick, State.finishTick_idem]))
  | staleWithdrawal => exact tickBlind_finishStale.live
  | serviceOverrun => exact tickBlind_finishOverrun.live
  | lineUnitTick =>
    exact framed (.onlyIf (p := fun s => s.link.ticksToLine = 0) (fun _ _ _ _ => .rfl) .id fun _ _ _ _ => rfl)
  | divisorLow b => exact framed fun _ _ _ _ => rfl
  | divisorHigh b => exact framed fun _ _ _ _ => rfl
  | runStart => exact framed fun _ _ _ _ => rfl
  | runStop => exact framed fun _ _ _ _ => rfl
  | capture run => exact framed fun _ _ _ _ => rfl
  | operation code => exact framed (framed_writeOperation code)
  | define => exact .operation exec_row_define tickBlind_doDefine
  | release => exact .operation exec_row_release tickBlind_doRelease
  | readDefinition => exact .operation exec_row_readDefinition fun op _ => tickBlind_doReadDefinition op
  | readState => exact .operation exec_row_readState tickBlind_doReadState
  | arm span =>
    refine .operation (exec_row_arm span) fun op ph => ?_
    exact .view (v := fun s => (s.checkDefined op, fun e => s.time.count + (s.entry e).defn.delay)) (fun s => by simp)
      (f := fun v s => s.doArm op ph span v.1 v.2) fun v => tickBlind_doArm op ph span v.1 v.2
  | armAt span =>
    refine .operation (exec_row_armAt span) fun op ph => ?_
    exact .view (v := fun s => s.checkArmAt op) (fun s => by simp)
      (f := fun r s => s.doArm op ph span r fun _ => op.time) fun r => tickBlind_doArm op ph span r _
  | cancel => exact .operation exec_row_cancel tickBlind_doCancel
  | clearClass => exact .operation exec_row_clearClass tickBlind_doClearClass
  | setTime =>
    refine .operation exec_row_setTime fun op ph => ?_
    exact .onlyIf (p := fun _ => ph = .started) (fun _ => .rfl) (.of_takes fun s => doSetTime_finishTick s op) .id
  | setTimeWalkCompletion => exact .operation exec_row_setTimeWalkCompletion fun _ ph => tickBlind_doWalkCompletion ph
  | configureLine => exact .operation exec_row_configureLine tickBlind_doConfigureLine
  | configureClass => exact .operation exec_row_configureClass tickBlind_doConfigureClass
  | unknownOperation =>
    refine .work exec_row_unknownOperation (.view (v := fun s => (s.lc.slot, s.lc.work)) (fun s => by simp)
      (f := fun v s => match v.1, v.2 with
        | some op, .operation _ => if OpName.ofCode op.code = none then s.complete .unknownOperation else s
        | _, _ => s) fun v => ?_)
    split
    · exact .onlyIf (fun _ => .rfl) (.complete _) .id
    · exact .id
  | dueProcessingRun =>
    exact .work exec_row_dueProcessingRun (Framed.tickBlind
      (.onlyIf (p := fun s => s.lc.work = .run none) (fun _ _ _ _ => .rfl) framed_startRun .id))
  | triggerArm =>
    refine .work exec_row_triggerArm (.view (v := fun s => s.lc.work) (fun s => by simp)
      (f := fun w s => match w with | .latch n => (s.serveLatch n).setWork .latchServed | _ => s) fun w => ?_)
    split
    · exact ((framed_setWork _).comp (framed_serveLatch _)).tickBlind
    · exact .id
  | postRequest => exact tickBlind_takeNextPost.live
  | cancelRequest =>
    refine .operation exec_row_cancelRequest fun op ph => ?_
    refine .view (v := fun s => s.checkDefined op) (fun s => by simp) (f := fun r s => match ph, r, op.entry? with
      | .started, .complete, some e => (s.carryCancel op e).1.setWork (.operation (.carriedOut (s.carryCancel op e).2))
      | _, _, _ => s) fun r => ?_
    split
    · exact .of_takes fun s => by simp only [carryCancel_finishTick]
    · exact .id
  | clearRequest =>
    refine .operation exec_row_clearRequest fun op ph => ?_
    split
    · exact .of_takes fun s => by simp only [carryClear_finishTick]
    · exact .id
  | presenceQuery =>
    refine .work exec_row_presenceQuery (.view (v := fun s => s.queryTarget) (fun s => by simp)
      (f := fun x s => match x with
        | some e => s.takeAllPosts.setWork (.operation (.presence (s.takeAllPosts.presence e)))
        | none => s) fun x => ?_)
    cases x with
    | none => exact .id
    | some e => exact .of_takes fun s => by simp only [takeAllPosts_finishTick]
  | serviceLimitReplacement =>
    refine .operation exec_row_serviceLimitReplacement fun op ph => ?_
    split
    · exact .of_takes fun s => by simp only [takeLimit_finishTick]
    · exact .id
  | acknowledge => exact takes readVector_finishTick
  | done b => exact takes fun s => writeDone_finishTick s b
  | actionRequest => exact tickBlind_takeNextAction.live
  | lineConfiguration =>
    refine .operation exec_row_lineConfiguration fun op ph => ?_
    refine .view (v := fun s => s.checkConfigureLine op) (fun s => by simp) (f := fun r s => match ph, r with
      | .started, .complete => (s.sendLineConfig op).setWork (.operation (.carriedOut .complete))
      | _, _ => s) fun r => ?_
    split
    · exact ((framed_setWork _).comp (framed_sendLineConfig op)).tickBlind
    · exact .id
  | levelChange n level =>
    have hpin : Framed fun s => s.setPin n level := fun _ _ _ _ => rfl
    exact (tickBlind_takeChange n level).live.comp hpin.tickBlind
  | enable b => exact takes fun s => control_finishTick s b
  | clearAll b => exact takes fun s => control_finishTick s b
  | clearCollision b => exact takes fun s => control_finishTick s b
  | popCapture b => exact takes fun s => control_finishTick s b
  | popMiss b => exact takes fun s => control_finishTick s b
  | classMask b => exact takes fun s => writeMask_finishTick s b
  | alertClear b => exact takes fun s => alertClear_finishTick s b
  | alertEnable b => exact (tickBlind_alertEnable b).live
  | outputSet b => exact (tickBlind_outputSet b).live
  | outputClear b => exact (tickBlind_outputClear b).live
  | stagePointer b => exact framed fun _ _ _ _ => rfl
  | stageDataWrite b => exact framed fun _ _ _ _ => rfl
  | stageDataRead => exact framed fun _ _ _ _ => rfl
  | viewData => exact takes readView_finishTick
  | registerWrite a b => exact (tickBlind_busWrite a b).live
  | hardwareReset =>
    exact .of_takes fun s => by
      show s.finishTick.hardwareReset = s.hardwareReset
      simp only [State.hardwareReset, finishTick_ins, State.finishTick_pending]
  | resetNegation =>
    exact .onlyIf (p := fun s => s.win.resetAsserted = true) (fun s => by simp)
      (Framed.tickBlind (f := State.negateReset) fun _ _ _ _ => rfl) .id
  | runNextExpiry =>
    refine .work exec_row_runNextExpiry (.view (v := fun s => s.lc.work) (fun s => by simp)
      (f := fun w s => match w with | .run (some limit) => s.runExpiry limit | _ => s) fun w => ?_)
    split
    · exact (framed_runExpiry _).tickBlind
    · exact .id

/-- Settles O43: every command leaves the same with the rest of the tick taken before it, and the pins, the reads and the
arrivals that depend on the tick find it taken. -/
theorem tickIsTakenWhole : Obligations.TickIsTakenWhole := by
  refine ⟨fun c s => ⟨_, _, exec_effect c s, exec_effect c s.finishTick, effect_tickBlind c s⟩, fun s => ?_,
    fun s hlive => ?_⟩
  · simp only [State.intAsserted, State.alertAsserted, State.outPin, State.busRead, State.finishTick_idem,
      State.finishTick_win, implies_true, and_self]
  · have hlive' : s.finishTick.Live := by simpa [State.Live] using hlive
    have same (f : State → State) (hf : f s.finishTick = f s) : live s f = live s.finishTick f := by
      rw [live_eq hlive, live_eq hlive', hf]
    have hstale : s.finishStale.Live := by simpa [State.Live] using hlive
    have hoverrun : s.finishOverrun.Live := by simpa [State.Live] using hlive
    exact ⟨fun h => same _ (takeNextPost_finishTick h), same _ (readVector_finishTick s),
      fun b => same (·.writeDone b) (writeDone_finishTick s b),
      fun b => same (·.writeMask b) (writeMask_finishTick s b),
      fun b => same (·.alertClear b) (alertClear_finishTick s b),
      fun b => same (·.control b) (control_finishTick s b),
      same _ (readView_finishTick s),
      (takeAllPosts_finishTick s).symm,
      ⟨s.finishStale, s.finishOverrun, live_eq hlive State.finishStale, live_eq hstale State.finishOverrun,
        live_eq hlive State.finishOverrun,
        (live_eq hoverrun State.finishStale).trans (congrArg _ (finishStale_finishOverrun s))⟩,
      s.finishTick_idem, s.finishTick_marks⟩

end Sys2Proof.Machine.EventPool

namespace Sys2Proof.Machine.Service

open EventPool

/-! # Acknowledge, nesting and completion

The statements about the service stack: ACKNOWLEDGE, DONE and the service limit check. -/

/-! ## The service limit check (R115) -/

theorem overruns_eq (limits : Vector Half 8) (r : ServiceRecord) :
    r.overruns limits =
      decide (r.overrunFlag = false ∧ limits[r.cls] ≠ 0 ∧ (limits[r.cls]).toNat ≤ r.elapsed.toNat) := by
  simp [ServiceRecord.overruns, bne, beq_eq_decide, Bool.and_assoc]

/-- A record that is marked gets its flag, and every other record stays as it is. -/
theorem marked_eq (r : ServiceRecord) (b : Bool) :
    (if b then { r with overrunFlag := true } else r) = { r with overrunFlag := r.overrunFlag || b } := by
  cases b <;> simp

/-- Settles O42: without the mark nothing is left to check, and with it the check marks its records in one pass. -/
theorem serviceLimitMarksOverruns : Obligations.ServiceLimitMarksOverruns := by
  intro s hlive
  have hrow : exec .serviceOverrun s = .next s.finishOverrun := live_eq hlive State.finishOverrun
  simp only [← overruns_eq, ← marked_eq, hrow]
  refine ⟨fun hmark => by simp [State.finishOverrun, hmark], fun hmark => ?_⟩
  rw [State.finishOverrun, if_pos hmark, State.checkService]
  exact congrArg _ (setCause_if _ _ _)

/-! ## INT* after an arrival that takes the tick first (R95, R96) -/

/-- State t has the ENABLE bit and the CLASS MASK of s, and nothing of a tick is left in it. -/
structure TickTaken (s t : State) : Prop where
  enable : t.du.enable = s.du.enable
  mask : t.du.classMask = s.du.classMask
  stale : t.du.staleOwed = false
  overrun : t.du.overrunOwed = false

/-- What is left of a tick keeps the mask and the number of records in service. -/
theorem finishTick_mask_depth (s : State) : s.finishTick.du.classMask = s.du.classMask ∧
    s.finishTick.du.stack.length = s.du.stack.length := by
  have hrest := finishStale_rest s
  simp only [DispatchUnit.rest, Prod.mk.injEq] at hrest
  obtain ⟨hstack, hmask, -⟩ := hrest
  have hdepth := congrArg List.length (checkedStack_entries s.finishStale.du)
  simp only [List.length_map, hstack] at hdepth
  rw [State.finishTick, finishOverrun_eq]
  exact ⟨hmask, hdepth⟩

namespace TickTaken

variable {s t u : State}

theorem finishTick (s : State) : TickTaken s s.finishTick :=
  ⟨(finishTick_rest s).1, (finishTick_mask_depth s).1, s.finishTick_marks.1, s.finishTick_marks.2⟩

/-- A change of the records alone. -/
theorem congr (h : TickTaken s t) (henable : u.du.enable = t.du.enable) (hmask : u.du.classMask = t.du.classMask)
    (hstale : u.du.staleOwed = t.du.staleOwed) (hoverrun : u.du.overrunOwed = t.du.overrunOwed) : TickTaken s u :=
  ⟨henable.trans h.enable, hmask.trans h.mask, hstale.trans h.stale, hoverrun.trans h.overrun⟩

theorem refill (h : TickTaken s t) : TickTaken s t.refill := by
  have hrest := t.refill_rest
  simp only [DispatchUnit.rest, Prod.mk.injEq] at hrest
  obtain ⟨-, hmask, henable, -, hstale, hoverrun⟩ := hrest
  exact h.congr henable hmask hstale hoverrun

theorem ackEffect (h : TickTaken s t) : TickTaken s t.ackEffect := by
  unfold State.ackEffect
  split
  · exact h
  · split
    · exact h
    · exact refill (h.congr rfl rfl rfl rfl)

theorem releaseAfter (h : TickTaken s t) (e : EntryNo) (line : Option OutLine) :
    TickTaken s (t.releaseAfter e line) := by
  refine h.congr ?_ ?_ ?_ ?_ <;> rw [State.releaseAfter_du]

theorem drive (h : TickTaken s t) (v : Byte) : TickTaken s (t.drive v) := h.congr rfl rfl rfl rfl

theorem writeDone (s : State) (b : Byte) : TickTaken s (s.writeDone b) := by
  have h := finishTick s
  unfold State.writeDone
  dsimp only
  split
  · exact h.congr rfl rfl rfl rfl
  · split
    · next top rest _ _ =>
      have hpop : TickTaken s { s.finishTick with du := { s.finishTick.du with stack := rest } } :=
        h.congr rfl rfl rfl rfl
      exact hpop.releaseAfter top.entry top.pulseLine
    · exact h.congr rfl rfl rfl rfl

/-- INT* follows the pool and the stack of the state it is in. -/
theorem intAsserted_iff (h : TickTaken s t) : t.intAsserted = true ↔ s.du.enable = true ∧
    ∃ r ∈ t.du.pool, s.du.classMask.getLsbD r.cls = false ∧ t.du.stack.length < 4 ∧
      (t.du.stack = [] ∨ ∃ top rest, t.du.stack = top :: rest ∧ r.cls < top.cls) := by
  rw [State.intAsserted, State.finishTick_none h.stale h.overrun, State.serviceWanted, Bool.and_eq_true,
    serveClass_isSome, h.enable]
  simp only [eligible_iff, h.mask]
  refine and_congr_right fun _ => ⟨?_, ?_⟩
  · rintro ⟨_, ⟨r, hr, rfl⟩, hopen⟩
    exact ⟨r, hr, hopen⟩
  · rintro ⟨r, hr, hopen⟩
    exact ⟨r.cls, ⟨r, hr, rfl⟩, hopen⟩

end TickTaken

/-! ## ACKNOWLEDGE (R84, R100, R102 to R104) -/

theorem exec_acknowledge {s : State} (hlive : s.Live) :
    exec .acknowledge s = .next (s.finishTick.ackEffect.drive s.finishTick.vectorValue) :=
  live_eq hlive State.readVector

/-- The class served is the lowest-numbered eligible one. -/
theorem serveClass_of_first {s : State} {c : ClassNo} (hc : s.eligible c = true)
    (hfirst : ∀ d : ClassNo, d < c → s.eligible d = false) : s.serveClass = some c := by
  have hplace : ∀ d : ClassNo, allClasses[d.val]'d.isLt = d := by decide
  refine List.find?_eq_some_iff_getElem.2 ⟨hc, c.val, c.isLt, hplace c, fun j hj => ?_⟩
  have hearlier := hfirst ⟨j, hj.trans c.isLt⟩ hj
  rw [← hplace ⟨j, hj.trans c.isLt⟩] at hearlier
  exact congrArg not hearlier

theorem nextEvent_of_first {s : State} {c : ClassNo} {r : Record} {l : List Record} (hc : s.eligible c = true)
    (hfirst : ∀ d : ClassNo, d < c → s.eligible d = false) (hlist : s.classList c = r :: l) :
    s.nextEvent = some r := by
  simp [State.nextEvent, serveClass_of_first hc hfirst, hlist]

theorem nextEvent_of_none {s : State} (h : ∀ c, s.eligible c = false) : s.nextEvent = none := by
  have hclass : s.serveClass = none := List.find?_eq_none.2 fun c _ => by simp [h c]
  rw [State.nextEvent, hclass, Option.bind_none]

/-- The held head moves into a free slot. -/
theorem refill_of_room {s : State} (h : s.du.held ≠ [] → s.du.pool.length < Config.poolSlots) :
    s.refill = { s with du := { s.du with pool := s.du.pool ++ s.du.held.take 1, held := s.du.held.drop 1 } } := by
  rcases s.refill_cases with ⟨heq, hcase⟩ | ⟨x, xs, hheld, -, heq⟩
  · have hnil : s.du.held = [] := by
      by_contra hne
      exact hcase.elim hne (not_le.2 (h hne))
    simp only [heq, hnil, List.take_nil, List.drop_nil, List.append_nil]
    rw [← hnil]
  · rw [heq, hheld]
    rfl

/-- The acknowledge of event r: it goes onto the stack, and its slot to the held head. -/
theorem serve_eq {s : State} {r : Record} (hmem : r ∈ s.du.pool)
    (hfull : s.du.held ≠ [] → s.du.pool.length = Config.poolSlots) :
    s.serve r = { s with du := { s.du with
      pool := s.du.pool.erase r ++ s.du.held.take 1
      held := s.du.held.drop 1
      stack := r.service s.time.count :: s.du.stack } } := by
  refine refill_of_room fun hheld => ?_
  rw [List.length_erase_of_mem hmem, hfull hheld]
  decide

section
variable {q : State}

/-- The read answers NEST FULL. -/
theorem acknowledge_of_full (h : Config.stackDepth ≤ q.du.stack.length) :
    q.ackEffect.drive q.vectorValue = q.drive vectorNestFull := by
  rw [State.ackEffect, if_pos h, State.vectorValue, if_pos h]

/-- The read answers NONE. -/
theorem acknowledge_of_none (h : q.du.stack.length < Config.stackDepth) (hnone : q.nextEvent = none) :
    q.ackEffect.drive q.vectorValue = q.drive vectorNone := by
  rw [State.ackEffect, if_neg (not_le.2 h), State.vectorValue, if_neg (not_le.2 h), hnone]

/-- The read answers an entry number and serves its event. -/
theorem acknowledge_of_event {r : Record} (h : q.du.stack.length < Config.stackDepth) (hnext : q.nextEvent = some r) :
    q.ackEffect.drive q.vectorValue = (q.serve r).drive (byteOfNat r.entry) := by
  rw [State.ackEffect, if_neg (not_le.2 h), State.vectorValue, if_neg (not_le.2 h), hnext]

end

/-- Settles O45: the value and the effect by the three cases of a VECTOR read. -/
theorem acknowledgeTakesTheFirstOfThreeCases : Obligations.AcknowledgeTakesTheFirstOfThreeCases := by
  refine ⟨fun s hreset => live_held hreset State.readVector, fun s t hlive hexec => ?_, fun s hlive => ?_⟩
  · obtain rfl := Host.Outcome.next.inj ((exec_acknowledge hlive).symm.trans hexec)
    exact ((TickTaken.finishTick s).ackEffect.drive _).intAsserted_iff
  · rw [exec_acknowledge hlive]
    have hdepth := (finishTick_mask_depth s).2
    refine ⟨fun hfour => congrArg _ (acknowledge_of_full (hdepth ▸ hfour)),
      fun hroom hnone => congrArg _ (acknowledge_of_none (hdepth ▸ hroom) (nextEvent_of_none hnone)),
      fun c r l hc hfirst hlist _ hheld => ?_⟩
    obtain ⟨-, -, hroom, -⟩ := (eligible_iff _ c).1 hc
    have hr : r ∈ s.finishTick.du.pool.filter fun x => x.cls = c := hlist ▸ List.mem_cons_self
    obtain ⟨hmem, hcls⟩ : r ∈ s.finishTick.du.pool ∧ r.cls = c := by simpa using hr
    rw [acknowledge_of_event hroom (nextEvent_of_first hc hfirst hlist), serve_eq hmem hheld, Record.service, hcls]
    rfl

/-! ## DONE (R85, R110, R111, R125) -/

theorem exec_done {s : State} (hlive : s.Live) (b : Byte) : exec (.done b) s = .next (s.writeDone b) :=
  live_eq hlive (·.writeDone b)

/-- The byte is the number of the entry. -/
theorem eq_byteOfNat_iff (b : Byte) (e : EntryNo) : b = byteOfNat e ↔ b.toNat = e.val := by
  have hsmall : e.val % 256 = e.val := Nat.mod_eq_of_lt (by omega)
  rw [byteOfNat, ← BitVec.toNat_inj, BitVec.toNat_ofNat, hsmall]

theorem writeDone_refused {s : State} {b : Byte} (h : s.finishTick.du.stack = [] ∨
    ∃ top rest, s.finishTick.du.stack = top :: rest ∧ b.toNat ≠ top.entry.val) :
    s.writeDone b = s.finishTick.setCause .deliveryError := by
  rcases h with hnil | ⟨top, rest, hstack, hother⟩
  · simp only [State.writeDone, hnil]
  · simp only [State.writeDone, hstack, if_neg (mt (eq_byteOfNat_iff b top.entry).1 hother)]

theorem writeDone_accepted {s : State} {b : Byte} {top : ServiceRecord} {rest : List ServiceRecord}
    (hstack : s.finishTick.du.stack = top :: rest) (hb : b.toNat = top.entry.val) :
    s.writeDone b = ({ s.finishTick with du := { s.finishTick.du with stack := rest } } : State).releaseAfter
      top.entry top.pulseLine := by
  simp only [State.writeDone, hstack, if_pos ((eq_byteOfNat_iff b top.entry).2 hb)]

theorem hasRecord_iff (s : State) (e : EntryNo) : s.hasRecord e = true ↔
    (∃ r ∈ s.du.pool ++ s.du.held, r.entry = e) ∨ ∃ r ∈ s.du.stack, r.entry = e := by
  simp only [State.hasRecord, State.presence, Presence.any, Bool.or_eq_true, hasEvent_iff, hasHeld_iff, hasService_iff,
    List.mem_append, or_and_right, exists_or]

/-- Settles O46: the refusal, and the pop with the release that it calls for. -/
theorem donePopsTheTopOrIsRefused : Obligations.DonePopsTheTopOrIsRefused := by
  refine ⟨fun s t b hlive hexec => ?_, fun s b hlive => ?_⟩
  · obtain rfl := Host.Outcome.next.inj ((exec_done hlive b).symm.trans hexec)
    exact (TickTaken.writeDone s b).intAsserted_iff
  · rw [exec_done hlive]
    refine ⟨fun hrefused => congrArg _ (writeDone_refused hrefused), fun top rest hstack hb => ?_⟩
    rw [writeDone_accepted hstack hb]
    have hremains := hasRecord_iff { s.finishTick with du := { s.finishTick.du with stack := rest } } top.entry
    refine ⟨fun hkept => ?_, fun l hline hnone => ?_⟩
    · rcases hkept with hline | hkept
      · rw [hline]
        rfl
      · cases hline : top.pulseLine with
        | none => rfl
        | some l => exact congrArg _ (if_pos (hremains.2 hkept))
    · rw [hline, State.releaseAfter, if_neg (mt hremains.1 hnone), State.releaseHolder, OutputLine.unhold]
      simp only [bne, beq_eq_decide, ← decide_not]
      rfl

end Sys2Proof.Machine.Service

namespace Sys2Proof.Machine.OutputLines

open EventPool

/-! # Output lines, and the guard of RESET*

The statements about action requests, the host writes and the read of the output lines, and about what is taken while
RESET* is asserted. -/

/-! ## The observed level (R122, R130) -/

theorem level_iff (o : OutputLine) : o.level = true ↔ o.base = true ∨ o.holders ≠ [] := by
  simp [OutputLine.level]

/-- The read of the output levels gives each line its own bit. -/
theorem getLsbD_outputLevels (s : State) (l : OutLine) : s.outputLevels.getLsbD l = (s.line.outs[l]).level := by
  obtain ⟨h0, h1, h2, h3, h4, h5, h6, h7⟩ := getLsbD_byteOfFlags (s.line.outs[0]).level (s.line.outs[1]).level
    (s.line.outs[2]).level (s.line.outs[3]).level (s.line.outs[4]).level (s.line.outs[5]).level
    (s.line.outs[6]).level (s.line.outs[7]).level
  match l with
  | 0 => exact h0
  | 1 => exact h1
  | 2 => exact h2
  | 3 => exact h3
  | 4 => exact h4
  | 5 => exact h5
  | 6 => exact h6
  | 7 => exact h7

/-! ## Action requests (R123, R124) -/

/-- A PULSE adds the entry to the holder set of its line. -/
theorem mem_hold (o : OutputLine) (e x : EntryNo) : x ∈ (o.hold e).holders ↔ x = e ∨ x ∈ o.holders :=
  mem_insertHolder e x o.holders

/-- The post requests up to and with the first that names a pulse line are taken together. -/
theorem splitPost_at_line {before : List PostReq} (h : ∀ x ∈ before, x.pulseLine = none) {p : PostReq}
    (hp : p.pulseLine ≠ none) (after : List PostReq) :
    splitPost (before ++ p :: after) = (before ++ [p], after) := by
  induction before with
  | nil => simp [splitPost, Option.isSome_iff_ne_none.2 hp]
  | cons x before ih =>
    have hrest := ih fun y hy => h y (List.mem_cons_of_mem x hy)
    have hx := h x List.mem_cons_self
    simp [splitPost, hx, hrest]

theorem takeNextAction_nil {s : State} (h : s.link.actions = []) : s.takeNextAction = s := by
  simp only [State.takeNextAction, h]

/-- SET, CLEAR and TOGGLE are taken alone. -/
theorem takeNextAction_base {s : State} {a : ActionReq} {as : List ActionReq} (h : s.link.actions = a :: as)
    (ha : a.pulse? = none) :
    s.takeNextAction = ({ s with link := { s.link with actions := as } } : State).perform a := by
  cases a with
  | pulse l e => cases ha
  | set l | clear l | toggle l => simp only [State.takeNextAction, h]

/-- A PULSE is taken after the rest of a tick, with the post requests up to its own. -/
theorem takeNextAction_pulse {s : State} {l : OutLine} {e : EntryNo} {as : List ActionReq}
    {before after : List PostReq} {p : PostReq} (h : s.link.actions = .pulse l e :: as)
    (hposts : s.link.posts = before ++ p :: after) (hbefore : ∀ x ∈ before, x.pulseLine = none)
    (hp : p.pulseLine ≠ none) :
    s.takeNextAction = ((before ++ [p]).foldl State.postCase { s.finishTick with
      link := { s.finishTick.link with posts := after, actions := as } }).perform (.pulse l e) := by
  simp only [State.takeNextAction, h, State.finishTick_link, hposts, splitPost_at_line hbefore hp]

theorem exec_actionRequest {s : State} (hlive : s.Live) : exec .actionRequest s = .next s.takeNextAction :=
  live_eq hlive State.takeNextAction

/-- Settles O47: the effect of each request on its line, the level, and the order in which the requests are taken. -/
theorem actionRequestsMoveTheLines : Obligations.ActionRequestsMoveTheLines := by
  refine ⟨fun s l e => ⟨rfl, rfl, rfl, _, rfl, mem_hold s.line.outs[l] e⟩, level_iff, fun s hlive => ?_⟩
  rw [exec_actionRequest hlive]
  exact ⟨fun hnone => congrArg _ (takeNextAction_nil hnone),
    fun _ _ hacts hbase => congrArg _ (takeNextAction_base hacts hbase),
    fun _ _ _ _ _ _ hacts hposts hbefore hp => congrArg _ (takeNextAction_pulse hacts hposts hbefore hp)⟩

/-! ## Nothing is taken under RESET* (R131, R145, R158, R161, R173) -/

/-- The guard of RESET* holds off the change t, whatever it is. -/
theorem guard_held {s : State} (h : s.win.resetAsserted = true) (t : State) :
    (.next (if s.win.resetAsserted then s else t) : Answer) = .next s :=
  congrArg _ (if_pos h)

/-- Settles O3: every row but the three of the pins and RESET* itself is guarded by RESET*. -/
theorem nothingIsTakenUnderReset : Obligations.NothingIsTakenUnderReset := by
  refine ⟨fun c s hreset => ?_, fun s a hreset => if_pos hreset⟩
  cases c with
  | levelChange n level => exact guard_held (s := s.setPin n level) hreset _
  | hardwareReset => rfl
  | resetNegation => exact congrArg _ (if_pos hreset)
  | _ => exact guard_held hreset _

/-! ## Host writes and the read of the output lines (R128, R130) -/

/-- Settles O48: each line by its own bit of the written byte, and each bit of the read by its own line. -/
theorem outputWritesSelectLines : Obligations.OutputWritesSelectLines := by
  refine ⟨fun s b hlive => ⟨⟨_, live_eq hlive (·.outputSet b), fun l => ?_⟩,
    ⟨_, live_eq hlive (·.outputClear b), fun l => ?_⟩⟩, fun s l hlive => ?_⟩
  · exact Vector.getElem_mapFinIdx _
  · exact Vector.getElem_mapFinIdx _
  · exact ⟨_, State.busRead_live hlive 0xB, getLsbD_outputLevels s.finishTick l, level_iff _⟩

end Sys2Proof.Machine.OutputLines

namespace Sys2Proof.Machine.InputLines

open ListOperations EventPool

/-! # Input lines and the capture queue

The statements about level changes, hold-off and captures, and about the capture queue and the miss log as history. -/

/-! ## What a level change is made of (R134 to R137, R139, R142) -/

/-- The last of two changes of one line stands. -/
theorem setIn_setIn (s : State) (n : InLine) (i j : InputLine) : (s.setIn n i).setIn n j = s.setIn n j := by
  simp [State.setIn]

theorem setIn_self (s : State) (n : InLine) (i : InputLine) : (s.setIn n i).line.ins[n] = i := by
  simp [State.setIn]

/-- A capture record joins the queue while it has room; a first one and a lost one each set their cause (R139). -/
theorem capture_eq (s : State) (r : CaptureRecord) :
    s.capture r = { s with
      line := { s.line with
        captures := if s.line.captures.length < Config.captureQueueSize then s.line.captures ++ [r]
          else s.line.captures }
      alert := { s.alert with
        causes := causeIf (!decide (s.line.captures.length < Config.captureQueueSize))
          (causeIf s.line.captures.isEmpty s.alert.causes .captureReady) .captureLost } } := by
  unfold State.capture
  by_cases hroom : s.line.captures.length < Config.captureQueueSize
  · cases hempty : s.line.captures.isEmpty <;> simp [hroom, causeIf, State.setCause, withCause]
  · have hfull : s.line.captures.isEmpty = false := by
      cases hc : s.line.captures with
      | nil => simp [hc, Config.captureQueueSize] at hroom
      | cons _ _ => rfl
    simp [hroom, hfull, causeIf, State.setCause, withCause]

/-- A full latch keeps its edge time, and an empty one takes the new one (R142). -/
theorem fillLatch_eq (s : State) (n : InLine) (t : Word) :
    s.fillLatch n t = s.setLatch n (some ((s.lc.latches[n]).getD t)) := by
  unfold State.fillLatch
  cases h : s.lc.latches[n] with
  | none => rfl
  | some x =>
    have hsame : s.lc.latches.set n (some x) = s.lc.latches := by
      rw [← h]
      exact Vector.set_getElem_self _
    simp [State.setLatch, hsame]

/-- Only a controller at rest makes a choice when something becomes ready (R59). -/
theorem wake_eq (s : State) :
    s.wake = { s with lc := { s.lc with work := if s.lc.work = .rest then s.lc.choose else s.lc.work } } := by
  unfold State.wake
  by_cases h : s.lc.work = .rest <;> simp [h, State.endWork]

/-- The trigger latch of the line takes the count, and a controller at rest is woken by it (R59, R142). -/
theorem fillLatch_wake_eq (s : State) (n : InLine) (t : Word) :
    (s.fillLatch n t).wake =
      let filled : ListController := { s.lc with latches := s.lc.latches.set n (some ((s.lc.latches[n]).getD t)) }
      { s with lc := { filled with work := if s.lc.work = .rest then filled.choose else s.lc.work } } := by
  rw [fillLatch_eq, wake_eq]
  rfl

/-- A level equal to the last one is no change. -/
theorem takeChange_same {s : State} {n : InLine} {level : Bool} (h : (s.line.ins[n]).lastLevel = level) :
    s.takeChange n level = s := if_pos h

/-- A change that the edge select does not admit, or that falls in the hold-off, moves the last level alone. -/
theorem takeChange_ignored {s : State} {n : InLine} {level : Bool} (h : (s.line.ins[n]).lastLevel ≠ level)
    (hno : (s.line.ins[n]).cfg.edgeSelect.admits level = false ∨ (s.line.ins[n]).counter ≠ 0) :
    s.takeChange n level = s.setIn n { s.line.ins[n] with lastLevel := level } := by
  have hcond : ¬ ((s.line.ins[n]).cfg.edgeSelect.admits level && (s.line.ins[n]).counter == 0) = true := by
    rw [Bool.and_eq_true, beq_iff_eq]
    rintro ⟨hsel, hcount⟩
    exact hno.elim (fun hf => Bool.false_ne_true (hf.symm.trans hsel)) (· hcount)
  exact (if_neg h).trans (if_neg hcond)

/-- Any other change is a recognized edge. -/
theorem takeChange_recognized {s : State} {n : InLine} {level : Bool} (h : (s.line.ins[n]).lastLevel ≠ level)
    (hsel : (s.line.ins[n]).cfg.edgeSelect.admits level = true) (hcount : (s.line.ins[n]).counter = 0) :
    s.takeChange n level = (s.setIn n { s.line.ins[n] with lastLevel := level }).recognize n level :=
  (if_neg h).trans (if_pos (by rw [hsel, hcount]; rfl))

/-- The state after a recognized edge on a line that stands as i: the hold-off is loaded, the record made and the latch
filled with one count. -/
theorem setIn_recognize (s : State) (n : InLine) (i : InputLine) (level : Bool) :
    (s.setIn n i).recognize n level =
      let r : CaptureRecord :=
        { line := n, edge := .ofLevel level, count := s.time.count, phase := s.time.phase }
      let queue := s.line.captures
      let joins := decide (queue.length < Config.captureQueueSize)
      let filled : ListController := { s.lc with
        latches := s.lc.latches.set n (some ((s.lc.latches[n]).getD s.time.count)) }
      { s with
        line := { s.line with
          ins := s.line.ins.set n { i with counter := i.cfg.holdOff }
          captures := if i.cfg.captureOn && joins then queue ++ [r] else queue }
        alert := { s.alert with
          causes := causeIf (i.cfg.captureOn && !joins)
            (causeIf (i.cfg.captureOn && queue.isEmpty) s.alert.causes .captureReady) .captureLost }
        lc := if i.cfg.trigger.isSome then
            { filled with work := if s.lc.work = .rest then filled.choose else s.lc.work }
          else s.lc } := by
  simp only [State.recognize, fillLatch_wake_eq, setIn_self, setIn_setIn]
  cases i.cfg.captureOn <;> cases i.cfg.trigger.isSome <;> simp [capture_eq, State.setIn, causeIf]

theorem exec_levelChange {s : State} (hlive : s.Live) (n : InLine) (level : Bool) :
    exec (.levelChange n level) s = .next ((s.setPin n level).takeChange n level) :=
  live_eq (s := s.setPin n level) hlive fun s => s.takeChange n level

theorem exec_lineUnitTick {s : State} (hlive : s.Live) :
    exec .lineUnitTick s = .next (if s.link.ticksToLine = 0 then s else s.takeLineTick) :=
  live_eq hlive fun s => if s.link.ticksToLine = 0 then s else s.takeLineTick

/-- The line as it stands when the line unit examines the change of its pin. -/
theorem setPin_self (s : State) (n : InLine) (level : Bool) :
    (s.setPin n level).line.ins[n] = { s.line.ins[n] with pin := level } := setIn_self s n _

/-- Settles O49: the three cases of a change of level, each with the state it leaves, and the tick of the hold-offs. -/
theorem inputChangesAndHoldOff : Obligations.InputChangesAndHoldOff := by
  refine ⟨fun s n level hlive => ?_, fun s hlive => ?_⟩
  · rw [exec_levelChange hlive]
    have hpin := setPin_self s n level
    refine ⟨fun hsame => ?_, fun hchange hno => ?_, fun hchange hsel hcount => ?_⟩
    · rw [takeChange_same (by rw [hpin]; exact hsame)]
      rfl
    · rw [takeChange_ignored (by rw [hpin]; exact hchange) (by rw [hpin]; exact hno), hpin, State.setPin, setIn_setIn]
      rfl
    · rw [takeChange_recognized (by rw [hpin]; exact hchange) (by rw [hpin]; exact hsel) (by rw [hpin]; exact hcount),
        hpin, State.setPin, setIn_setIn, setIn_recognize]
      rfl
  · rw [exec_lineUnitTick hlive]
    refine ⟨fun hnone => by rw [if_pos hnone], fun k hk =>
      ⟨s.takeLineTick.line.ins, ?_, fun n => getElem_mapAll _ _ n n.isLt⟩⟩
    rw [if_neg (by omega), State.takeLineTick, hk]
    rfl

/-! ## The miss log and the capture queue are history (R139, R140, R150, R152)

`LogsGrow s₀ s` says that s holds every record of s₀ in its place. Each operation but the pops and the resets keeps it. -/

/-- Both logs of the first state stand at the heads of those of the second. -/
structure LogsGrow (s t : State) : Prop where
  misses : s.alert.missLog <+: t.alert.missLog
  captures : s.line.captures <+: t.line.captures

/-- A change that no record leaves by. -/
def Logging (f : State → State) : Prop := ∀ s, LogsGrow s (f s)

theorem postCase_missLog (s : State) (p : PostReq) : (s.postCase p).alert.missLog = s.alert.missLog := by
  rcases s.postCase_cases p with ⟨_, h⟩ | ⟨_, _, h⟩ | ⟨_, _, _, h⟩ | ⟨_, _, _, h⟩ <;>
    exact congrArg (·.alert.missLog) h

namespace LogsGrow

variable {s₀ s : State}

theorem refl (s : State) : LogsGrow s s := ⟨List.prefix_rfl, List.prefix_rfl⟩

/-- A change of neither log. -/
theorem congr (h : LogsGrow s₀ s) {t : State} (hm : t.alert.missLog = s.alert.missLog)
    (hc : t.line.captures = s.line.captures) : LogsGrow s₀ t := ⟨hm ▸ h.misses, hc ▸ h.captures⟩

theorem setDu (h : LogsGrow s₀ s) (d : DispatchUnit) : LogsGrow s₀ { s with du := d } := h.congr rfl rfl

theorem setCause (h : LogsGrow s₀ s) (c : Cause) : LogsGrow s₀ (s.setCause c) := h.congr rfl rfl

theorem setLink (h : LogsGrow s₀ s) (k : Links) : LogsGrow s₀ { s with link := k } := h.congr rfl rfl

theorem setWork (h : LogsGrow s₀ s) (w : Work) : LogsGrow s₀ (s.setWork w) := h.congr rfl rfl

theorem setIn (h : LogsGrow s₀ s) (n : InLine) (i : InputLine) : LogsGrow s₀ (s.setIn n i) := h.congr rfl rfl

theorem onlyIf {p : Prop} [Decidable p] {t u : State} (ht : LogsGrow s₀ t) (hu : LogsGrow s₀ u) :
    LogsGrow s₀ (if p then t else u) := by
  split
  · exact ht
  · exact hu

theorem foldl {α : Type} {f : State → α → State} (hf : ∀ s a, LogsGrow s₀ s → LogsGrow s₀ (f s a))
    (h : LogsGrow s₀ s) (l : List α) : LogsGrow s₀ (l.foldl f s) :=
  List.foldlRecOn l f h fun t ht a _ => hf t a ht

/-! ### The dispatch unit -/

theorem logMiss (h : LogsGrow s₀ s) (m : MissRecord) : LogsGrow s₀ (s.logMiss m) := by
  rcases s.logMiss_cases m with ⟨_, heq⟩ | ⟨_, heq⟩ <;> rw [heq]
  · exact ⟨h.misses.trans (List.prefix_append _ _), h.captures⟩
  · exact h.congr rfl rfl

theorem releaseAfter (h : LogsGrow s₀ s) (e : EntryNo) (l : Option OutLine) : LogsGrow s₀ (s.releaseAfter e l) :=
  h.congr (by simp) (by simp)

theorem perform (h : LogsGrow s₀ s) (a : ActionReq) : LogsGrow s₀ (s.perform a) := h.congr (by simp) (by simp)

theorem withdrawHeld (h : LogsGrow s₀ s) (reason : MissReason) (r : Record) :
    LogsGrow s₀ (s.withdrawHeld reason r) :=
  ((h.setDu { s.du with held := s.du.held.erase r }).logMiss _).releaseAfter _ _

theorem withdrawEvent (h : LogsGrow s₀ s) (reason : MissReason) (r : Record) :
    LogsGrow s₀ (s.withdrawEvent reason r) :=
  (((h.setDu { s.du with pool := s.du.pool.erase r }).logMiss (r.miss reason)).releaseAfter r.entry
    r.pulseLine).congr (by simp [State.withdrawEvent]) (by simp [State.withdrawEvent])

theorem withdrawStale (h : LogsGrow s₀ s) : LogsGrow s₀ s.withdrawStale := by
  have hheld : LogsGrow s₀ s.withdrawStaleHeld := h.foldl (fun _ r h => h.withdrawHeld .stale r) _
  have hall : LogsGrow s₀ (allClasses.foldl State.withdrawStaleClass s.withdrawStaleHeld) :=
    hheld.foldl (fun _ c h => h.foldl (fun _ r h => h.withdrawEvent .stale r) _) allClasses
  exact (hall.setCause .stale).onlyIf hall

theorem finishStale (h : LogsGrow s₀ s) : LogsGrow s₀ s.finishStale :=
  (h.setDu { s.du with staleOwed := false }).withdrawStale.onlyIf h

theorem finishOverrun (h : LogsGrow s₀ s) : LogsGrow s₀ s.finishOverrun := by
  rw [finishOverrun_eq]
  exact h.congr rfl rfl

theorem finishTick (h : LogsGrow s₀ s) : LogsGrow s₀ s.finishTick := h.finishStale.finishOverrun

theorem postCase (h : LogsGrow s₀ s) (p : PostReq) : LogsGrow s₀ (s.postCase p) :=
  h.congr (postCase_missLog s p) (by simp)

theorem takePost (h : LogsGrow s₀ s) (p : PostReq) : LogsGrow s₀ (s.takePost p) :=
  postCase (onlyIf (h.congr (by simp) (by simp)) h) p

theorem takeNextPost (h : LogsGrow s₀ s) : LogsGrow s₀ s.takeNextPost := by
  unfold State.takeNextPost
  split
  · exact h
  · exact (h.finishTick.setLink _).takePost _

theorem takeAllPosts (h : LogsGrow s₀ s) : LogsGrow s₀ s.takeAllPosts :=
  (h.finishTick.setLink _).foldl (fun _ p h => h.takePost p) _

theorem takeNextAction (h : LogsGrow s₀ s) : LogsGrow s₀ s.takeNextAction := by
  unfold State.takeNextAction
  split
  · exact h
  · exact ((h.finishTick.setLink _).foldl (fun _ p h => h.postCase p) _).perform _
  · exact (h.setLink _).perform _

theorem takeCancel (h : LogsGrow s₀ s) (e : EntryNo) (withdraw : Bool) : LogsGrow s₀ (s.takeCancel e withdraw) :=
  have hheld := h.foldl (fun _ r h => h.withdrawHeld .withdrawn r) _
  onlyIf (hheld.foldl (fun _ r h => h.withdrawEvent .withdrawn r) _) hheld

theorem takeClear (h : LogsGrow s₀ s) (c : ClassNo) : LogsGrow s₀ (s.takeClear c) :=
  (h.foldl (fun _ r h => h.withdrawHeld .withdrawn r) _).foldl (fun _ r h => h.withdrawEvent .withdrawn r) _

theorem takeLimit (h : LogsGrow s₀ s) (c : ClassNo) (limit : Half) : LogsGrow s₀ (s.takeLimit c limit) :=
  h.finishTick.congr rfl rfl

theorem writeDone (h : LogsGrow s₀ s) (b : Byte) : LogsGrow s₀ (s.writeDone b) := by
  have ht := h.finishTick
  unfold State.writeDone
  dsimp only
  split
  · exact ht.setCause .deliveryError
  · exact onlyIf ((ht.setDu _).releaseAfter _ _) (ht.setCause .deliveryError)

/-! ### The line unit -/

theorem capture (h : LogsGrow s₀ s) (r : CaptureRecord) : LogsGrow s₀ (s.capture r) := by
  rw [capture_eq]
  refine ⟨h.misses, h.captures.trans ?_⟩
  dsimp only
  split
  · exact List.prefix_append _ _
  · exact List.prefix_rfl

theorem recognize (h : LogsGrow s₀ s) (n : InLine) (level : Bool) : LogsGrow s₀ (s.recognize n level) := by
  have hset := h.setIn n { s.line.ins[n] with counter := (s.line.ins[n]).cfg.holdOff }
  have hjoin := hset.capture { line := n, edge := .ofLevel level, count := s.time.count, phase := s.time.phase }
  have hrecord := hjoin.onlyIf (p := (s.line.ins[n]).cfg.captureOn = true) hset
  exact (hrecord.congr (by simp) (by simp)).onlyIf hrecord

theorem takeChange (h : LogsGrow s₀ s) (n : InLine) (level : Bool) : LogsGrow s₀ (s.takeChange n level) :=
  have hset := h.setIn n { s.line.ins[n] with lastLevel := level }
  h.onlyIf ((hset.recognize n level).onlyIf hset)

/-! ### The host operations -/

theorem complete (h : LogsGrow s₀ s) (r : Result) : LogsGrow s₀ (s.complete r) := h.congr rfl rfl

theorem afterQuery (h : LogsGrow s₀ s) (ph : OpPhase) : LogsGrow s₀ (s.afterQuery ph) := by
  cases ph with
  | presence p => exact h
  | _ => exact h.takeAllPosts

theorem doDefine (h : LogsGrow s₀ s) (op : HostOp) (ph : OpPhase) : LogsGrow s₀ (s.doDefine op ph) := by
  have ht := h.afterQuery ph
  unfold State.doDefine
  split
  · exact h.complete _
  · refine onlyIf (h.complete _) (onlyIf (ht.complete _) ?_)
    split
    · exact ht.congr rfl rfl
    · exact ht.complete _

theorem doRelease (h : LogsGrow s₀ s) (op : HostOp) (ph : OpPhase) : LogsGrow s₀ (s.doRelease op ph) := by
  have ht := h.afterQuery ph
  unfold State.doRelease
  split
  · exact h.complete _
  · split
    · exact h.complete _
    · exact h.complete _
    · exact onlyIf (ht.complete _) (onlyIf (ht.complete _) (ht.congr rfl rfl))

theorem doReadDefinition (h : LogsGrow s₀ s) (op : HostOp) : LogsGrow s₀ (s.doReadDefinition op) := by
  unfold State.doReadDefinition
  split
  · exact h.complete _
  · exact onlyIf (h.complete _) (h.congr rfl rfl)

theorem doReadState (h : LogsGrow s₀ s) (op : HostOp) (ph : OpPhase) : LogsGrow s₀ (s.doReadState op ph) := by
  unfold State.doReadState
  split
  · exact h.complete _
  · exact (h.afterQuery ph).congr rfl rfl

theorem doArm (h : LogsGrow s₀ s) (op : HostOp) (ph : OpPhase) (span : Span) (r : Result) (t : EntryNo → Word) :
    LogsGrow s₀ (s.doArm op ph span r t) := by
  have harm : LogsGrow s₀ (s.armIf r op t) := h.congr (by simp) (by simp)
  unfold State.doArm
  split
  · exact h.complete _
  · cases span with
    | whole => exact harm.complete r
    | carryOut => exact harm.setWork _

theorem carryCancel (h : LogsGrow s₀ s) (op : HostOp) (e : EntryNo) : LogsGrow s₀ (s.carryCancel op e).1 :=
  have hdisarm : LogsGrow s₀ (s.disarm e) := h.congr (by simp) (by simp)
  hdisarm.takeAllPosts.takeCancel e op.withdraw

theorem doCancel (h : LogsGrow s₀ s) (op : HostOp) (ph : OpPhase) : LogsGrow s₀ (s.doCancel op ph) := by
  unfold State.doCancel
  split
  · exact h.complete _
  · exact (h.carryCancel op _).complete _
  · exact h.complete _

theorem carryClear (h : LogsGrow s₀ s) (c : ClassNo) : LogsGrow s₀ (s.carryClear c) :=
  have hwalk : LogsGrow s₀ (s.clearWalk c) := h.congr (by simp) (by simp)
  hwalk.takeAllPosts.takeClear c

theorem doClearClass (h : LogsGrow s₀ s) (op : HostOp) (ph : OpPhase) : LogsGrow s₀ (s.doClearClass op ph) := by
  unfold State.doClearClass
  split
  · exact h.complete _
  · exact h.complete _
  · exact (h.carryClear _).complete _

theorem doSetTime (h : LogsGrow s₀ s) (op : HostOp) : LogsGrow s₀ (s.doSetTime op) := h.takeAllPosts.congr rfl rfl

theorem doWalkCompletion (h : LogsGrow s₀ s) (ph : OpPhase) : LogsGrow s₀ (s.doWalkCompletion ph) := by
  cases ph with
  | adjusting d => exact complete (h.congr (by simp) (by simp)) _
  | _ => exact h

theorem doConfigureLine (h : LogsGrow s₀ s) (op : HostOp) (ph : OpPhase) :
    LogsGrow s₀ (s.doConfigureLine op ph) := by
  unfold State.doConfigureLine
  split
  · exact h.complete _
  · split
    · exact complete (h.congr (by simp) (by simp)) _
    · exact h.complete _

theorem doConfigureClass (h : LogsGrow s₀ s) (op : HostOp) (ph : OpPhase) :
    LogsGrow s₀ (s.doConfigureClass op ph) := by
  unfold State.doConfigureClass
  split
  · exact h.complete _
  · exact h.complete _
  · exact (h.takeLimit _ _).complete _

/-! ### The register window -/

/-- A write cycle to any address but that of CONTROL. -/
theorem busWrite (h : LogsGrow s₀ s) {a : WinAddr} (ha : a ≠ 0) (b : Byte) : LogsGrow s₀ (s.busWrite a b) := by
  unfold State.busWrite
  split
  · next hzero => exact absurd (BitVec.eq_of_toNat_eq hzero) ha
  · exact h.congr (by simp) (by simp)
  · exact h.congr rfl rfl
  · exact h.congr rfl rfl
  · exact h.congr rfl rfl
  · exact h.writeDone b
  · exact h.congr rfl rfl
  · exact h
  · exact h.finishTick.congr rfl rfl
  · exact h.finishTick.congr rfl rfl
  · exact h.congr rfl rfl
  · exact h.congr rfl rfl
  · exact h.congr rfl rfl
  · exact h.congr rfl rfl
  · exact h.congr rfl rfl
  · exact h.congr rfl rfl

end LogsGrow

/-! ### Every command -/

namespace Logging

/-- A command that RESET* holds off. -/
theorem live {f : State → State} (hf : Logging f) : Logging (whenLive f) := fun s => .onlyIf (.refl s) (hf s)

/-- A row of the controller's work: the end of the piece before it touches no log. -/
theorem work {c : Instr} {f : State → State} (hc : ∀ s, exec c s = liveWork s f)
    (hf : ∀ s₀ s, LogsGrow s₀ s → LogsGrow s₀ (f s)) : Logging (effect c) := by
  rw [effect_of_work hc]
  exact live fun s => hf s s.settle ((LogsGrow.refl s).congr (by simp) (by simp))

/-- A row of an operation: its step, or nothing. -/
theorem operation {c : Instr} {n : OpName} {f : State → HostOp → OpPhase → State}
    (hc : ∀ s, exec c s = liveWork s fun s => s.onOperation n (f s))
    (hf : ∀ {s₀ s} op ph, LogsGrow s₀ s → LogsGrow s₀ (f s op ph)) : Logging (effect c) :=
  work hc fun s₀ s h => by
    rcases onOperation_cases s n (f s) with heq | ⟨op, ph, _, heq⟩
    · exact heq.symm ▸ h
    · exact heq.symm ▸ hf op ph h

end Logging

/-- The commands that records may leave by: a write of CONTROL, by any of its rows or by its address, and RESET*. -/
def mayDiscard : Instr → Bool
  | .enable _ | .clearAll _ | .clearCollision _ | .popCapture _ | .popMiss _ | .hardwareReset => true
  | .registerWrite a _ => a == 0
  | _ => false

theorem effect_logging (c : Instr) (hc : mayDiscard c = false) : Logging (effect c) := by
  have quiet {f : State → State} (hm : ∀ s, (f s).alert.missLog = s.alert.missLog)
      (hq : ∀ s, (f s).line.captures = s.line.captures) : Logging (whenLive f) :=
    .live fun s => (LogsGrow.refl s).congr (hm s) (hq s)
  have grows {f : State → State} (hf : ∀ {s₀ s}, LogsGrow s₀ s → LogsGrow s₀ (f s)) : Logging (whenLive f) :=
    .live fun s => hf (.refl s)
  cases c with
  | tbclkEdge => exact quiet (by simp) (by simp)
  | tick => exact grows fun {_ s} h => (h.congr (t := s.makeTick) rfl rfl).onlyIf h
  | listControllerTick => exact grows fun h => h.onlyIf (h.congr (by simp) (by simp))
  | dispatchTick => exact grows fun h => h.onlyIf (h.finishTick.congr rfl rfl)
  | staleWithdrawal => exact grows fun h => h.finishStale
  | serviceOverrun => exact grows fun h => h.finishOverrun
  | lineUnitTick => exact grows fun h => h.onlyIf (h.congr rfl rfl)
  | operation code => exact quiet (by simp) (by simp)
  | define => exact .operation exec_row_define fun op ph h => h.doDefine op ph
  | release => exact .operation exec_row_release fun op ph h => h.doRelease op ph
  | readDefinition => exact .operation exec_row_readDefinition fun op _ h => h.doReadDefinition op
  | readState => exact .operation exec_row_readState fun op ph h => h.doReadState op ph
  | arm span => exact .operation (exec_row_arm span) fun op ph h => h.doArm op ph span _ _
  | armAt span => exact .operation (exec_row_armAt span) fun op ph h => h.doArm op ph span _ _
  | cancel => exact .operation exec_row_cancel fun op ph h => h.doCancel op ph
  | clearClass => exact .operation exec_row_clearClass fun op ph h => h.doClearClass op ph
  | setTime => exact .operation exec_row_setTime fun op _ h => (h.doSetTime op).onlyIf h
  | setTimeWalkCompletion => exact .operation exec_row_setTimeWalkCompletion fun _ ph h => h.doWalkCompletion ph
  | configureLine => exact .operation exec_row_configureLine fun op ph h => h.doConfigureLine op ph
  | configureClass => exact .operation exec_row_configureClass fun op ph h => h.doConfigureClass op ph
  | unknownOperation =>
    refine .work exec_row_unknownOperation fun s₀ s h => ?_
    split
    · exact (h.complete _).onlyIf h
    · exact h
  | dueProcessingRun =>
    exact .work exec_row_dueProcessingRun fun s₀ s h => (h.congr (by simp) (by simp)).onlyIf h
  | triggerArm =>
    refine .work exec_row_triggerArm fun s₀ s h => ?_
    split
    · exact h.congr (by simp) (by simp)
    · exact h
  | postRequest => exact grows fun h => h.takeNextPost
  | cancelRequest =>
    refine .operation exec_row_cancelRequest fun op ph h => ?_
    split
    · exact (h.carryCancel op _).setWork _
    · exact h
  | clearRequest =>
    refine .operation exec_row_clearRequest fun op ph h => ?_
    split
    · exact (h.carryClear _).setWork _
    · exact h
  | presenceQuery =>
    refine .work exec_row_presenceQuery fun s₀ s h => ?_
    split
    · exact h.takeAllPosts.setWork _
    · exact h
  | serviceLimitReplacement =>
    refine .operation exec_row_serviceLimitReplacement fun op ph h => ?_
    split
    · exact (h.takeLimit _ _).setWork _
    · exact h
  | acknowledge => exact grows fun h => h.finishTick.congr (by simp [State.readVector]) (by simp [State.readVector])
  | done b => exact grows fun h => h.writeDone b
  | actionRequest => exact grows fun h => h.takeNextAction
  | lineConfiguration =>
    refine .operation exec_row_lineConfiguration fun op ph h => ?_
    split
    · exact h.congr (by simp) (by simp)
    · exact h
  | levelChange n level =>
    intro s
    have hpin : LogsGrow s (s.setPin n level) := (LogsGrow.refl s).setIn n _
    exact hpin.onlyIf (hpin.takeChange n level)
  | viewData => exact grows fun h => h.finishTick.congr rfl rfl
  | classMask b => exact grows fun h => h.finishTick.congr rfl rfl
  | alertClear b => exact grows fun h => h.finishTick.congr rfl rfl
  | registerWrite a b => exact grows fun h => h.busWrite (ne_of_beq_false hc) b
  | resetNegation => exact fun s => ((LogsGrow.refl s).congr (t := s.negateReset) rfl rfl).onlyIf (.refl s)
  | runNextExpiry =>
    refine .work exec_row_runNextExpiry fun s₀ s h => ?_
    split
    · exact h.congr (by simp) (by simp)
    · exact h
  | enable | clearAll | clearCollision | popCapture | popMiss | hardwareReset => cases hc
  | divisorLow | divisorHigh | runStart | runStop | capture | alertEnable | outputSet | outputClear | stagePointer
  | stageDataWrite | stageDataRead => exact quiet (fun _ => rfl) fun _ => rfl

/-! ### A write of CONTROL -/

/-- A write of CONTROL with CLEAR ALL 0 pops the logs that its bits name, after the miss records of a tick already taken
have joined. -/
theorem control_logs {s : State} {b : Byte} (h : b.getLsbD 1 = false) :
    (s.control b).alert.missLog =
      (if b.getLsbD 4 then s.finishTick.alert.missLog.tail else s.finishTick.alert.missLog) ∧
    (s.control b).line.captures = if b.getLsbD 3 then s.line.captures.tail else s.line.captures := by
  simp only [State.control, h, Bool.false_eq_true, if_false, State.popCapture, State.popMiss, apply_ite State.alert,
    apply_ite State.line, apply_ite AlertUnit.missLog, apply_ite LineUnit.captures, ite_self, finishTick_captures,
    and_self]

/-- What a write of CONTROL leaves of the logs, for each of the commands that it is counted under. -/
theorem effect_control_logs {c : Instr} {b : Byte} (hc : ∀ s, exec c s = live s (·.control b)) {s : State}
    (hlive : s.Live) (hb : b.getLsbD 1 = false) :
    s.alert.missLog <+: s.finishTick.alert.missLog ∧
    (effect c s).alert.missLog =
      (if b.getLsbD 4 then s.finishTick.alert.missLog.tail else s.finishTick.alert.missLog) ∧
    (effect c s).line.captures = if b.getLsbD 3 then s.line.captures.tail else s.line.captures := by
  have heffect : effect c s = s.control b :=
    Host.Outcome.next.inj ((exec_effect c s).symm.trans ((hc s).trans (live_eq hlive _)))
  rw [heffect]
  exact ⟨(LogsGrow.refl s).finishTick.misses, control_logs hb⟩

/-- Settles O60: records leave by a write of CONTROL or RESET* alone; by any other command both logs grow at the tail. -/
theorem logsAreHistory : Obligations.LogsAreHistory := by
  intro c s t hexec
  obtain rfl : effect c s = t := Host.Outcome.next.inj ((exec_effect c s).symm.trans hexec)
  have kept (hc : mayDiscard c = false) : s.alert.missLog <+: (effect c s).alert.missLog ∧
      s.line.captures <+: (effect c s).line.captures :=
    have h := effect_logging c hc s
    ⟨h.misses, h.captures⟩
  cases c with
  | enable b | clearAll b | clearCollision b | popCapture b | popMiss b =>
    exact fun hlive hb => effect_control_logs (fun _ => rfl) hlive hb
  | registerWrite a b =>
    dsimp only
    split
    · next hzero =>
      subst hzero
      exact fun hlive hb => effect_control_logs (fun _ => rfl) hlive hb
    · next hother => exact kept (beq_false_of_ne hother)
  | hardwareReset => trivial
  | _ => exact kept rfl

end Sys2Proof.Machine.InputLines

namespace Sys2Proof.Machine.RegisterWindow

open ListOperations EventPool Service

/-! # Register window and bus interface

The statements about the DEFINE layout, the views, the codes, the routing of addresses, CONTROL and clear-all, and that
every command answers. -/

/-! ## Multi-byte values -/

theorem toNat_le2 (a b : Byte) : (le2 a b).toNat = a.toNat + 256 * b.toNat := by
  have ha := a.isLt
  rw [le2, BitVec.toNat_append, ← Nat.shiftLeft_add_eq_or_of_lt ha, Nat.shiftLeft_eq]
  omega

theorem toNat_le4 (a b c d : Byte) :
    (le4 a b c d).toNat = a.toNat + 256 * b.toNat + 65536 * c.toNat + 16777216 * d.toNat := by
  have ha := a.isLt
  have hb := b.isLt
  have hc := c.isLt
  rw [le4, BitVec.toNat_append, ← Nat.shiftLeft_add_eq_or_of_lt ha, BitVec.toNat_append,
    ← Nat.shiftLeft_add_eq_or_of_lt hb, BitVec.toNat_append, ← Nat.shiftLeft_add_eq_or_of_lt hc]
  simp only [Nat.shiftLeft_eq]
  omega

/-- A 16-bit value is the value of its two bytes. -/
theorem le2_bytes (h : Half) : le2 (h.extractLsb' 0 8) (h.extractLsb' 8 8) = h := by
  have := h.isLt
  apply BitVec.eq_of_toNat_eq
  simp only [toNat_le2, BitVec.extractLsb'_toNat, Nat.shiftRight_eq_div_pow]
  omega

/-- A 32-bit value is the value of its four bytes. -/
theorem le4_bytes (w : Word) :
    le4 (w.extractLsb' 0 8) (w.extractLsb' 8 8) (w.extractLsb' 16 8) (w.extractLsb' 24 8) = w := by
  have := w.isLt
  apply BitVec.eq_of_toNat_eq
  simp only [toNat_le4, BitVec.extractLsb'_toNat, Nat.shiftRight_eq_div_pow]
  omega

/-- Two bytes are fixed by the value that they spell. -/
theorem le2_inj {a b a' b' : Byte} (h : le2 a b = le2 a' b') : a = a' ∧ b = b' := by
  have hnat := congrArg BitVec.toNat h
  have := a.isLt
  have := a'.isLt
  rw [toNat_le2, toNat_le2] at hnat
  simp only [← BitVec.toNat_inj]
  omega

/-- Four bytes are fixed by the value that they spell. -/
theorem le4_inj {a b c d a' b' c' d' : Byte} (h : le4 a b c d = le4 a' b' c' d') :
    a = a' ∧ b = b' ∧ c = c' ∧ d = d' := by
  have hnat := congrArg BitVec.toNat h
  have := a.isLt
  have := a'.isLt
  have := b.isLt
  have := b'.isLt
  have := c.isLt
  have := c'.isLt
  rw [toNat_le4, toNat_le4] at hnat
  simp only [← BitVec.toNat_inj]
  omega

theorem toNat_byteOfNat {n : Nat} (h : n < 256) : (byteOfNat n).toNat = n := Nat.mod_eq_of_lt h

/-! ## The fields of the DEFINE layout (R169) -/

/-- Bytes 0 and 1 of the layout, as the sums of their fields. -/
theorem toNat_fields (b : Byte) :
    b.toNat = (field3 b 0).val + 8 * (b.getLsbD 3).toNat + 16 * (b.getLsbD 4).toNat + 32 * (b.extractLsb' 5 3).toNat ∧
    b.toNat = (b.extractLsb' 0 3).toNat + 8 * (b.getLsbD 3).toNat + 16 * (field3 b 4).val +
      128 * (b.getLsbD 7).toNat := by
  have := b.isLt
  have hfield (k : Nat) : (field3 b k).val = b.toNat / 2 ^ k % 8 := by
    simp [field3, Nat.shiftRight_eq_div_pow]
  simp only [hfield, BitVec.extractLsb'_toNat, Nat.shiftRight_eq_div_pow, BitVec.getLsbD, Nat.toNat_testBit]
  omega

/-- Byte 0 holds the class, the delivery and the policy, and zeros above. -/
theorem byte0_fields (d : Definition) :
    field3 d.byte0 0 = d.cls ∧ d.byte0.getLsbD 3 = (d.delivery == .post) ∧
    d.byte0.getLsbD 4 = (d.policy == .restart) ∧ d.byte0.extractLsb' 5 3 = 0 := by
  unfold Definition.byte0
  generalize d.cls = c
  cases d.delivery <;> cases d.policy <;> revert c <;> decide

/-- The output that byte 1 spells. -/
def outputOf (b : Byte) : Option Output :=
  (actionOf (b.extractLsb' 0 3).toNat).map fun a => { act := a, line := field3 b 4 }

/-- The action code of byte 1. -/
def actionCode : Option Output → Nat
  | none => 0
  | some o => o.act.code.toNat

/-- Byte 1 holds the action and the line, and zeros between and above; for NONE the line is 0. -/
theorem byte1_fields (d : Definition) :
    (d.byte1.extractLsb' 0 3).toNat = actionCode d.output ∧ d.byte1.getLsbD 3 = false ∧ d.byte1.getLsbD 7 = false ∧
    outputOf d.byte1 = d.output ∧ (d.output = none → d.byte1 = 0) := by
  unfold Definition.byte1
  cases d.output with
  | none => decide
  | some o =>
    obtain ⟨act, line⟩ := o
    cases act <;> revert line <;> decide

theorem actionCode_le (o : Option Output) : actionCode o ≤ 4 := by
  rcases o with _ | ⟨act, line⟩
  · exact Nat.zero_le _
  · revert line
    cases act <;> decide

/-- Code 4 is PULSE. -/
theorem actionCode_eq_four (o : Option Output) : actionCode o = 4 ↔ ∃ x, o = some x ∧ x.act = .pulse := by
  rcases o with _ | ⟨act, line⟩
  · simp [actionCode]
  · cases act <;> simp [actionCode, Action.code]

theorem actionCode_eq_zero (o : Option Output) : actionCode o = 0 ↔ o = none := by
  rcases o with _ | ⟨act, line⟩
  · simp [actionCode]
  · cases act <;> simp [actionCode, Action.code]

/-- The five action codes spell different actions. -/
theorem actionOf_inj {m n : Nat} (hm : m ≤ 4) (hn : n ≤ 4) (h : actionOf m = actionOf n) : m = n := by
  revert h
  interval_cases m <;> interval_cases n <;> decide

theorem actionOf_eq_none {n : Nat} (hn : n ≤ 4) (h : actionOf n = none) : n = 0 := actionOf_inj hn (Nat.zero_le 4) h

theorem actionOf_eq_pulse {n : Nat} (hn : n ≤ 4) (h : actionOf n = some .pulse) : n = 4 := actionOf_inj hn le_rfl h

/-- The entry byte spells its follow-on. -/
theorem entryOf_entryByte (f : Option EntryNo) : entryOf (entryByte f) = f := by
  cases f with
  | none => rfl
  | some e => exact (entryOf_eq_some_iff _ e).2 ((eq_byteOfNat_iff _ e).1 rfl)

/-- A period in range is the one that its bytes spell. -/
theorem periodOf_getD {p : Option Word} (h : ∀ w, p = some w → 1 ≤ w.toNat) : periodOf (p.getD 0) = p := by
  cases p with
  | none => rfl
  | some w =>
    have hne : w ≠ 0 := by
      rintro rfl
      exact absurd (h 0 rfl) (by decide)
    exact if_neg hne

theorem periodOf_eq_none (w : Word) : periodOf w = none ↔ w = 0 := by simp [periodOf]

theorem periodOf_inj {v w : Word} (h : periodOf v = periodOf w) : v = w := by
  have hgetD (u : Word) : (periodOf u).getD 0 = u := by
    unfold periodOf
    split
    · next hzero => exact hzero.symm
    · rfl
  rw [← hgetD v, h, hgetD]

/-! ## The checks of form and range (R26, R27) -/

/-- The fourth check of DEFINE, case by case. -/
structure GoodForm (i : Image) : Prop where
  zeros0 : i[0].extractLsb' 5 3 = 0
  zero3 : i[1].getLsbD 3 = false
  zero7 : i[1].getLsbD 7 = false
  zero15 : i[15] = 0
  action : (i[1].extractLsb' 0 3).toNat ≤ 4
  line : (i[1].extractLsb' 0 3).toNat ≠ 0 ∨ i[1].extractLsb' 4 3 = 0
  followOn : (entryOf i[12]).isSome ∨ i[12] = 0xFF
  pulse : (i[1].extractLsb' 0 3).toNat ≠ 4 ∨ i[0].getLsbD 3 = true
  repeatLimit : le4 i[6] i[7] i[8] i[9] ≠ 0 ∨ le2 i[10] i[11] = 0

theorem formOk_iff (i : Image) : formOk i = true ↔ GoodForm i := by
  simp only [formOk, Bool.and_eq_true, Bool.or_eq_true, Bool.not_eq_true', bne_iff_ne, beq_iff_eq, decide_eq_true_eq]
  constructor
  · rintro ⟨⟨⟨⟨⟨⟨⟨⟨h1, h2⟩, h3⟩, h4⟩, h5⟩, h6⟩, h7⟩, h8⟩, h9⟩
    exact ⟨h1, h2, h3, h4, h5, h6, h7, h8, h9⟩
  · rintro ⟨h1, h2, h3, h4, h5, h6, h7, h8, h9⟩
    exact ⟨⟨⟨⟨⟨⟨⟨⟨h1, h2⟩, h3⟩, h4⟩, h5⟩, h6⟩, h7⟩, h8⟩, h9⟩

theorem delayInRange_iff (w : Word) : delayInRange w = true ↔ 1 ≤ w.toNat ∧ w.toNat < 2 ^ 31 := by
  simp [delayInRange]

theorem delaysOk_iff (d : Definition) : delaysOk d = true ↔
    (1 ≤ d.delay.toNat ∧ d.delay.toNat < 2 ^ 31) ∧ ∀ p, d.period = some p → 1 ≤ p.toNat ∧ p.toNat < 2 ^ 31 := by
  rw [delaysOk, Bool.and_eq_true, delayInRange_iff]
  cases d.period with
  | none => simp
  | some p => simp [delayInRange_iff]

theorem legal_iff (d : Definition) : d.legal = true ↔ delaysOk d = true ∧
    (∀ o, d.output = some o → o.act = .pulse → d.delivery = .post) ∧ (d.period = none → d.repeatLimit = 0) := by
  have hrepeat : (d.period.isSome || d.repeatLimit == 0) = true ↔ (d.period = none → d.repeatLimit = 0) := by
    cases d.period <;> simp
  rw [Definition.legal, Bool.and_eq_true, Bool.and_eq_true, hrepeat, and_assoc]
  refine and_congr_right fun _ => and_congr_left fun _ => ?_
  cases d.output with
  | none => simp
  | some o =>
    simp only [Bool.or_eq_true, bne_iff_ne, beq_iff_eq, Option.some.injEq, forall_eq']
    exact imp_iff_not_or.symm

/-! ## DEFINE and READ DEFINITION agree (R31, R169) -/

theorem decode_encode {d : Definition} (h : d.legal = true) : decodeDefinition (encodeDefinition d) = d := by
  obtain ⟨hdelays, -, -⟩ := (legal_iff d).1 h
  obtain ⟨-, hperiod⟩ := (delaysOk_iff d).1 hdelays
  obtain ⟨hcls, hpost, hrestart, -⟩ := byte0_fields d
  obtain ⟨-, -, -, houtput, -⟩ := byte1_fields d
  have hdelivery : (if d.byte0.getLsbD 3 then Delivery.post else .silent) = d.delivery := by
    rw [hpost]
    cases d.delivery <;> rfl
  have hpolicy : (if d.byte0.getLsbD 4 then Policy.restart else .keep) = d.policy := by
    rw [hrestart]
    cases d.policy <;> rfl
  have hper : periodOf (le4 ((d.period.getD 0).extractLsb' 0 8) ((d.period.getD 0).extractLsb' 8 8)
      ((d.period.getD 0).extractLsb' 16 8) ((d.period.getD 0).extractLsb' 24 8)) = d.period := by
    rw [le4_bytes, periodOf_getD fun w hw => (hperiod w hw).1]
  exact (Definition.mk.injEq ..).mpr ⟨hcls, hdelivery, hpolicy, houtput, le4_bytes d.delay, hper,
    le2_bytes d.repeatLimit, entryOf_entryByte d.followOn, le2_bytes d.staleLimit⟩

theorem goodForm_encode {d : Definition} (h : d.legal = true) : GoodForm (encodeDefinition d) := by
  obtain ⟨-, hpulse, hrepeat⟩ := (legal_iff d).1 h
  obtain ⟨-, hpost, -, hzeros⟩ := byte0_fields d
  obtain ⟨hcode, hthree, hseven, -, hnone⟩ := byte1_fields d
  have hdecode := decode_encode h
  have hperiod : periodOf (le4 (encodeDefinition d)[6] (encodeDefinition d)[7] (encodeDefinition d)[8]
      (encodeDefinition d)[9]) = d.period := congrArg Definition.period hdecode
  have hlimit : le2 (encodeDefinition d)[10] (encodeDefinition d)[11] = d.repeatLimit :=
    congrArg Definition.repeatLimit hdecode
  refine ⟨hzeros, hthree, hseven, rfl, ?_, ?_, ?_, ?_, ?_⟩
  · exact hcode.trans_le (actionCode_le d.output)
  · by_cases hout : d.output = none
    · exact .inr (congrArg (·.extractLsb' 4 3) (hnone hout))
    · exact .inl (hcode.trans_ne (mt (actionCode_eq_zero _).1 hout))
  · show (entryOf (entryByte d.followOn)).isSome ∨ entryByte d.followOn = 0xFF
    rw [entryOf_entryByte]
    cases d.followOn with
    | none => exact .inr rfl
    | some e => exact .inl rfl
  · by_cases hfour : actionCode d.output = 4
    · obtain ⟨o, hout, hact⟩ := (actionCode_eq_four _).1 hfour
      exact .inr (hpost.trans (beq_iff_eq.2 (hpulse o hout hact)))
    · exact .inl (hcode.trans_ne hfour)
  · by_cases hzero : d.period = none
    · exact .inr (hlimit.trans (hrepeat hzero))
    · exact .inl fun h0 => hzero (hperiod.symm.trans ((periodOf_eq_none _).2 h0))

/-- An image that passes both checks spells a definition that DEFINE can write. -/
theorem legal_decode {i : Image} (hform : GoodForm i) (hdelays : delaysOk (decodeDefinition i) = true) :
    (decodeDefinition i).legal = true := by
  refine (legal_iff _).2 ⟨hdelays, fun o hout hact => ?_, fun hper => ?_⟩
  · obtain ⟨a, haction, rfl⟩ := Option.map_eq_some_iff.1 hout
    obtain rfl : a = .pulse := hact
    have hfour := actionOf_eq_pulse hform.action haction
    exact if_pos (hform.pulse.resolve_left (not_not.2 hfour))
  · exact hform.repeatLimit.resolve_left (not_not.2 ((periodOf_eq_none _).1 hper))

/-- The byte of an output is fixed by the output that it spells. -/
theorem outputOf_inj {i j : Image} (hi : GoodForm i) (hj : GoodForm j) (h : outputOf i[1] = outputOf j[1]) :
    i[1] = j[1] := by
  have haction : actionOf (i[1].extractLsb' 0 3).toNat = actionOf (j[1].extractLsb' 0 3).toNat := by
    simpa [outputOf, Function.comp_def] using congrArg (Option.map Output.act) h
  have hcode := actionOf_inj hi.action hj.action haction
  have hline : field3 i[1] 4 = field3 j[1] 4 := by
    cases hout : actionOf (i[1].extractLsb' 0 3).toNat with
    | none =>
      have hzero := actionOf_eq_none hi.action hout
      have hi0 := hi.line.resolve_left (not_not.2 hzero)
      have hj0 := hj.line.resolve_left (not_not.2 (hcode.symm.trans hzero))
      rw [field3, field3, hi0, hj0]
    | some a =>
      rw [outputOf, outputOf, ← haction, hout] at h
      exact congrArg Output.line (Option.some.inj h)
  apply BitVec.eq_of_toNat_eq
  rw [(toNat_fields i[1]).2, (toNat_fields j[1]).2, hcode, hline, hi.zero3, hi.zero7, hj.zero3, hj.zero7]

/-- The follow-on byte is fixed by the follow-on that it spells. -/
theorem entryOf_inj {i j : Image} (hi : GoodForm i) (hj : GoodForm j) (h : entryOf i[12] = entryOf j[12]) :
    i[12] = j[12] := by
  cases hi12 : entryOf i[12] with
  | none =>
    have hi' := hi.followOn.resolve_left (by simp [hi12])
    have hj' := hj.followOn.resolve_left (by simp [← h, hi12])
    rw [hi', hj']
  | some e =>
    have hi' := (entryOf_eq_some_iff _ e).1 hi12
    have hj' := (entryOf_eq_some_iff _ e).1 (h.symm.trans hi12)
    exact BitVec.eq_of_toNat_eq (hi'.trans hj'.symm)

/-- Two images of good form that spell the same definition are the same. -/
theorem decode_inj {i j : Image} (hi : GoodForm i) (hj : GoodForm j) (h : decodeDefinition i = decodeDefinition j) :
    i = j := by
  obtain ⟨hcls, hdelivery, hpolicy, houtput, hdelay, hperiod, hrepeat, hfollow, hstale⟩ :=
    (Definition.mk.injEq ..).mp h
  have hpost : i[0].getLsbD 3 = j[0].getLsbD 3 := by
    revert hdelivery
    cases i[0].getLsbD 3 <;> cases j[0].getLsbD 3 <;> simp
  have hrestart : i[0].getLsbD 4 = j[0].getLsbD 4 := by
    revert hpolicy
    cases i[0].getLsbD 4 <;> cases j[0].getLsbD 4 <;> simp
  have h0 : i[0] = j[0] := by
    apply BitVec.eq_of_toNat_eq
    rw [(toNat_fields i[0]).1, (toNat_fields j[0]).1, hcls, hpost, hrestart, hi.zeros0, hj.zeros0]
  have h1 := outputOf_inj hi hj houtput
  obtain ⟨h2, h3, h4, h5⟩ := le4_inj hdelay
  obtain ⟨h6, h7, h8, h9⟩ := le4_inj (periodOf_inj hperiod)
  obtain ⟨h10, h11⟩ := le2_inj hrepeat
  have h12 := entryOf_inj hi hj hfollow
  obtain ⟨h13, h14⟩ := le2_inj hstale
  have h15 := hi.zero15.trans hj.zero15.symm
  ext k hk
  interval_cases k <;> simp only [*]

/-- Settles O11: the fields come back from their bytes, and a good image is fixed by the definition it spells. -/
theorem definitionImageRoundTrip : Obligations.DefinitionImageRoundTrip := by
  refine ⟨fun d => ?_, fun d hlegal => ?_, fun i hform hdelays => ?_⟩
  · rw [legal_iff, delaysOk_iff, and_assoc]
  · rw [formOk_iff, decode_encode hlegal]
    exact ⟨goodForm_encode hlegal, ((legal_iff d).1 hlegal).1, rfl⟩
  · rw [formOk_iff] at hform
    have hlegal := legal_decode hform hdelays
    exact ⟨hlegal, decode_inj (goodForm_encode hlegal) hform (decode_encode hlegal)⟩

/-! ## The bytes of the views (R167, R171) -/

/-- A read of VIEW DATA drives the byte at the index, and the index moves on. -/
theorem exec_viewData {s : State} (hlive : s.Live) : exec .viewData s = .next { s.finishTick with
    win := { s.finishTick.win with
      readData := some (s.finishTick.viewAt s.win.viewSource s.win.viewIndex.toNat)
      viewIndex := s.win.viewIndex + 1 } } := by
  have hrow : exec .viewData s = .next s.readView := live_eq hlive State.readView
  rw [hrow]
  simp only [State.readView, State.drive, State.viewByte, State.viewAt, State.finishTick_win]

/-- The bytes of a source, read one by one. -/
theorem viewAt_of_view {s : State} {k : BitVec 3} {l : List Byte} (h : s.view k = l) (n : Nat) :
    s.viewAt k n = l[n]?.getD 0 := by rw [State.viewAt, h]

/-- An empty source reads 00H. -/
theorem viewAt_of_nil {s : State} {k : BitVec 3} (h : s.view k = []) (n : Nat) : s.viewAt k n = 0 :=
  viewAt_of_view h n

/-- Beyond the bytes of its source a view reads 00H. -/
theorem viewAt_beyond {s : State} {k : BitVec 3} {n : Nat} (h : (s.view k).length ≤ n) (i : Nat) :
    s.viewAt k (n + i) = 0 := by
  rw [State.viewAt, List.getElem?_eq_none (by omega)]
  rfl

/-- A level of the STACK view takes two bytes: 00H twice above the depth. -/
theorem stackLevel_of_none {stack : List ServiceRecord} {level : Nat} (h : stack.length ≤ level) :
    stackLevel stack level = [0, 0] := by
  rw [stackLevel, List.getElem?_eq_none (by simpa using h)]

theorem stackLevel_of_some {stack : List ServiceRecord} {level : Nat} {r : ServiceRecord}
    (h : stack.reverse[level]? = some r) : stackLevel stack level = [byteOfNat r.entry, byteOfNat r.cls] := by
  rw [stackLevel, h]

theorem stackLevel_length (stack : List ServiceRecord) (level : Nat) : (stackLevel stack level).length = 2 := by
  unfold stackLevel
  split <;> rfl

/-- The bytes of the STACK view, level by level. -/
theorem stackView_eq (s : State) : s.stackView = byteOfNat s.du.stack.length ::
    (stackLevel s.du.stack 0 ++ (stackLevel s.du.stack 1 ++ (stackLevel s.du.stack 2 ++ stackLevel s.du.stack 3))) := by
  simp [State.stackView, allLevels]

/-- The two bytes of a level stand at 1 + 2 level of the STACK view. -/
theorem viewAt_stackLevel {s : State} {i : Fin 4} {x y : Byte} (h : stackLevel s.du.stack i = [x, y]) :
    s.viewAt 1 (1 + 2 * i) = x ∧ s.viewAt 1 (2 + 2 * i) = y := by
  have hview (n : Nat) : s.viewAt 1 n = s.stackView[n]?.getD 0 := rfl
  have two (level : Nat) : ∃ a b, stackLevel s.du.stack level = [a, b] :=
    List.length_eq_two.1 (stackLevel_length s.du.stack level)
  obtain ⟨a0, b0, h0⟩ := two 0
  obtain ⟨a1, b1, h1⟩ := two 1
  obtain ⟨a2, b2, h2⟩ := two 2
  obtain ⟨a3, b3, h3⟩ := two 3
  rw [hview, hview, stackView_eq, h0, h1, h2, h3]
  match i with
  | 0 => simpa using h0.symm.trans h
  | 1 => simpa using h1.symm.trans h
  | 2 => simpa using h2.symm.trans h
  | 3 => simpa using h3.symm.trans h

/-- The length of each class list stands at 2 + class of the POOL view. -/
theorem viewAt_classList (s : State) (c : ClassNo) : s.viewAt 2 (2 + c) = byteOfNat (s.classList c).length := by
  have hclass : allClasses[c.val]? = some c := by
    revert c
    decide
  have htail : s.viewAt 2 (2 + c) = (allClasses.map fun c => byteOfNat (s.classList c).length)[c.val]?.getD 0 := by
    rw [Nat.add_comm]
    rfl
  rw [htail, List.getElem?_map, hclass]
  rfl

theorem eventView_nil {s : State} (h : s.du.stack = []) : s.eventView = [] := by
  simp only [State.eventView, h]

/-- The bytes of the EVENT view with a record in service. -/
theorem eventView_cons {s : State} {top : ServiceRecord} {rest : List ServiceRecord} (h : s.du.stack = top :: rest) :
    s.eventView =
      [byteOfNat s.du.stack.length, byteOfNat top.entry, byteOfNat top.cls] ++ bytes2 top.firstOcc ++ bytes4 top.due ++
        bytes4 top.expiry ++ bytes4 top.ackTime ++ [top.overrun] ++ bytes2 top.elapsed ++
        [if top.overrunFlag then 1 else 0] := by
  simp only [State.eventView, h]

theorem captureView_nil {s : State} (h : s.line.captures = []) : s.captureView = [] := by
  simp only [State.captureView, h]

/-- The bytes of the CAPTURE view with a record in the queue. -/
theorem captureView_cons {s : State} {r : CaptureRecord} {rest : List CaptureRecord} (h : s.line.captures = r :: rest) :
    s.captureView = [byteOfNat s.line.captures.length, byteOfNat r.line, r.edge.code] ++ bytes4 r.count ++
      bytes2 r.phase := by
  simp only [State.captureView, h]

theorem missView_nil {s : State} (h : s.alert.missLog = []) : s.missView = [] := by
  simp only [State.missView, h]

/-- The bytes of the MISS view with a record in the log. -/
theorem missView_cons {s : State} {r : MissRecord} {rest : List MissRecord} (h : s.alert.missLog = r :: rest) :
    s.missView = [byteOfNat s.alert.missLog.length, r.reason.code, byteOfNat r.entry, byteOfNat r.cls] ++
      bytes2 r.firstOcc ++ bytes4 r.due ++ [r.overrun] := by
  simp only [State.missView, h]

/-- The length of each source. -/
theorem view_length (s : State) : (s.view 0).length ≤ 21 ∧ (s.view 1).length = 9 ∧ (s.view 2).length = 10 ∧
    (s.view 3).length = 6 ∧ (s.view 4).length ≤ 9 ∧ (s.view 5).length ≤ 11 := by
  refine ⟨?event, ?stack, rfl, rfl, ?capture, ?miss⟩
  case event =>
    show s.eventView.length ≤ 21
    cases h : s.du.stack with
    | nil => simp [eventView_nil h]
    | cons top rest => simp [eventView_cons h, bytes2, bytes4]
  case stack =>
    show s.stackView.length = 9
    simp [stackView_eq, stackLevel_length]
  case capture =>
    show s.captureView.length ≤ 9
    cases h : s.line.captures with
    | nil => simp [captureView_nil h]
    | cons r rest => simp [captureView_cons h, bytes2, bytes4]
  case miss =>
    show s.missView.length ≤ 11
    cases h : s.alert.missLog with
    | nil => simp [missView_nil h]
    | cons r rest => simp [missView_cons h, bytes2, bytes4]

theorem toNat_flagByte (flag : Bool) : (if flag then 1 else 0 : Byte).toNat = flag.toNat := by
  cases flag <;> rfl

/-- Entry, class and line numbers stand in their bytes as they are. -/
theorem toNat_byteOfNat_fin {n : Nat} (i : Fin n) (h : n ≤ 256) : (byteOfNat i).toNat = i :=
  toNat_byteOfNat (i.isLt.trans_le h)

/-- Settles O54: the read by the model's operation, and each source's bytes where its layout puts them. -/
theorem viewsShowTheirLayouts : Obligations.ViewsShowTheirLayouts := by
  refine ⟨fun s hlive => exec_viewData hlive, fun s => ?_⟩
  obtain ⟨l0, l1, l2, l3, l4, l5⟩ := view_length s
  refine ⟨fun i => ⟨viewAt_beyond l0 i, viewAt_beyond l1.le i, viewAt_beyond l2.le i, viewAt_beyond l3.le i,
      viewAt_beyond l4 i, viewAt_beyond l5 i, rfl, rfl⟩,
    fun hnil => viewAt_of_nil (eventView_nil hnil), fun top rest hstack => ?event, rfl,
    fun i => ⟨fun r hr => ?level, fun hfree => viewAt_stackLevel (stackLevel_of_none hfree)⟩,
    rfl, rfl, viewAt_classList s, le4_bytes s.time.snapCount, le2_bytes s.time.snapPhase,
    fun hnil => viewAt_of_nil (captureView_nil hnil), fun r rest hcapture => ?capture,
    fun hnil => viewAt_of_nil (missView_nil hnil), fun r rest hmiss => ?miss⟩
  case event =>
    simp only [viewAt_of_view (k := 0) (eventView_cons hstack)]
    exact ⟨rfl, toNat_byteOfNat_fin top.entry (by decide), toNat_byteOfNat_fin top.cls (by decide), le2_bytes _,
      le4_bytes _, le4_bytes _, le4_bytes _, rfl, le2_bytes _, toNat_flagByte top.overrunFlag⟩
  case level =>
    obtain ⟨hentry, hcls⟩ := viewAt_stackLevel (stackLevel_of_some hr)
    rw [hentry, hcls]
    exact ⟨toNat_byteOfNat_fin r.entry (by decide), toNat_byteOfNat_fin r.cls (by decide)⟩
  case capture =>
    simp only [viewAt_of_view (k := 4) (captureView_cons hcapture)]
    exact ⟨rfl, toNat_byteOfNat_fin r.line (by decide), by cases r.edge <;> rfl, le4_bytes _, le2_bytes _⟩
  case miss =>
    simp only [viewAt_of_view (k := 5) (missView_cons hmiss)]
    exact ⟨rfl, by cases r.reason <;> rfl, toNat_byteOfNat_fin r.entry (by decide),
      toNat_byteOfNat_fin r.cls (by decide), le2_bytes _, le4_bytes _, rfl⟩

/-! ## Every command keeps the queue (R162) -/

/-- The change leaves the queue of commands. -/
def KeepsQueue (f : State → State) : Prop := ∀ s, (f s).pending = s.pending

theorem doDefine_pending (s : State) (op : HostOp) (ph : OpPhase) : (s.doDefine op ph).pending = s.pending := by
  unfold State.doDefine
  split
  · rfl
  · dsimp only
    split
    · rfl
    · split
      · simp
      · split <;> simp

theorem doRelease_pending (s : State) (op : HostOp) (ph : OpPhase) : (s.doRelease op ph).pending = s.pending := by
  unfold State.doRelease
  split
  · rfl
  · split
    · rfl
    · rfl
    · dsimp only
      split
      · simp
      · split <;> simp

theorem doReadDefinition_pending (s : State) (op : HostOp) : (s.doReadDefinition op).pending = s.pending := by
  unfold State.doReadDefinition
  split
  · rfl
  · split <;> rfl

theorem doReadState_pending (s : State) (op : HostOp) (ph : OpPhase) : (s.doReadState op ph).pending = s.pending := by
  unfold State.doReadState
  split <;> simp

theorem doArm_pending (s : State) (op : HostOp) (ph : OpPhase) (span : Span) (r : Result) (t : EntryNo → Word) :
    (s.doArm op ph span r t).pending = s.pending := by
  unfold State.doArm
  split
  · rfl
  · cases span <;> simp

theorem doCancel_pending (s : State) (op : HostOp) (ph : OpPhase) : (s.doCancel op ph).pending = s.pending := by
  unfold State.doCancel
  split <;> simp

theorem doClearClass_pending (s : State) (op : HostOp) (ph : OpPhase) : (s.doClearClass op ph).pending = s.pending := by
  unfold State.doClearClass
  split <;> simp

theorem doSetTime_pending (s : State) (op : HostOp) : (s.doSetTime op).pending = s.pending := by
  simp [State.doSetTime]

theorem doWalkCompletion_pending (s : State) (ph : OpPhase) : (s.doWalkCompletion ph).pending = s.pending := by
  unfold State.doWalkCompletion
  split <;> simp

theorem doConfigureLine_pending (s : State) (op : HostOp) (ph : OpPhase) :
    (s.doConfigureLine op ph).pending = s.pending := by
  unfold State.doConfigureLine
  split
  · rfl
  · split <;> simp

theorem doConfigureClass_pending (s : State) (op : HostOp) (ph : OpPhase) :
    (s.doConfigureClass op ph).pending = s.pending := by
  unfold State.doConfigureClass
  split <;> simp

theorem busWrite_pending (s : State) (a : WinAddr) (b : Byte) : (s.busWrite a b).pending = s.pending := by
  unfold State.busWrite
  split <;> simp

namespace KeepsQueue

variable {f : State → State}

/-- Nothing, or the change. -/
theorem onlyIf {p : State → Prop} [DecidablePred p] {g : State → State} (hf : KeepsQueue f) (hg : KeepsQueue g) :
    KeepsQueue fun s => if p s then f s else g s := fun s => by
  dsimp only
  split
  · exact hf s
  · exact hg s

/-- A command that RESET* holds off. -/
theorem live (hf : KeepsQueue f) : KeepsQueue (whenLive f) := onlyIf (fun _ => rfl) hf

/-- A row of the controller's work: the end of the piece before it keeps the queue. -/
theorem work {c : Instr} (hc : ∀ s, exec c s = liveWork s f) (hf : KeepsQueue f) : KeepsQueue (effect c) := by
  rw [effect_of_work hc]
  exact live fun s => (hf s.settle).trans s.settle_pending

/-- A row of an operation: its step, or nothing. -/
theorem operation {c : Instr} {n : OpName} {f : State → HostOp → OpPhase → State}
    (hc : ∀ s, exec c s = liveWork s fun s => s.onOperation n (f s))
    (hf : ∀ s op ph, (f s op ph).pending = s.pending) : KeepsQueue (effect c) :=
  work hc fun s => by
    rcases onOperation_cases s n (f s) with heq | ⟨op, ph, _, heq⟩
    · rw [heq]
    · rw [heq, hf]

end KeepsQueue

theorem effect_keepsQueue (c : Instr) : KeepsQueue (effect c) := by
  cases c with
  | tbclkEdge => exact .live State.tbclk_pending
  | tick => exact .live (.onlyIf State.makeTick_pending fun _ => rfl)
  | listControllerTick => exact .live (.onlyIf (fun _ => rfl) State.takeListTick_pending)
  | dispatchTick => exact .live (.onlyIf (fun _ => rfl) State.takeDispatchTick_pending)
  | staleWithdrawal => exact .live State.finishStale_pending
  | serviceOverrun => exact .live State.finishOverrun_pending
  | lineUnitTick => exact .live (.onlyIf (fun _ => rfl) State.takeLineTick_pending)
  | operation code => exact .live (·.writeOperation_pending code)
  | define => exact .operation exec_row_define doDefine_pending
  | release => exact .operation exec_row_release doRelease_pending
  | readDefinition => exact .operation exec_row_readDefinition fun s op _ => doReadDefinition_pending s op
  | readState => exact .operation exec_row_readState doReadState_pending
  | arm span => exact .operation (exec_row_arm span) fun s op ph => doArm_pending s op ph span _ _
  | armAt span => exact .operation (exec_row_armAt span) fun s op ph => doArm_pending s op ph span _ _
  | cancel => exact .operation exec_row_cancel doCancel_pending
  | clearClass => exact .operation exec_row_clearClass doClearClass_pending
  | setTime =>
    refine .operation exec_row_setTime fun s op ph => ?_
    split
    · exact doSetTime_pending s op
    · rfl
  | setTimeWalkCompletion =>
    exact .operation exec_row_setTimeWalkCompletion fun s _ ph => doWalkCompletion_pending s ph
  | configureLine => exact .operation exec_row_configureLine doConfigureLine_pending
  | configureClass => exact .operation exec_row_configureClass doConfigureClass_pending
  | unknownOperation =>
    refine .work exec_row_unknownOperation fun s => ?_
    split
    · split <;> rfl
    · rfl
  | dueProcessingRun => exact .work exec_row_dueProcessingRun (.onlyIf State.startRun_pending fun _ => rfl)
  | triggerArm =>
    refine .work exec_row_triggerArm fun s => ?_
    split <;> simp
  | postRequest => exact .live State.takeNextPost_pending
  | cancelRequest =>
    refine .operation exec_row_cancelRequest fun s op ph => ?_
    split <;> simp
  | clearRequest =>
    refine .operation exec_row_clearRequest fun s op ph => ?_
    split <;> simp
  | presenceQuery =>
    refine .work exec_row_presenceQuery fun s => ?_
    split <;> simp
  | serviceLimitReplacement =>
    refine .operation exec_row_serviceLimitReplacement fun s op ph => ?_
    split <;> simp
  | acknowledge => exact .live State.readVector_pending
  | done b => exact .live (·.writeDone_pending b)
  | actionRequest => exact .live State.takeNextAction_pending
  | lineConfiguration =>
    refine .operation exec_row_lineConfiguration fun s op ph => ?_
    split <;> simp
  | levelChange n level =>
    exact fun s => KeepsQueue.live (·.takeChange_pending n level) (s.setPin n level)
  | enable b | clearAll b | clearCollision b | popCapture b | popMiss b => exact .live (·.control_pending b)
  | classMask b => exact .live (·.writeMask_pending b)
  | alertClear b => exact .live (·.alertClear_pending b)
  | viewData => exact .live State.readView_pending
  | registerWrite a b => exact .live (busWrite_pending · a b)
  | hardwareReset => exact State.hardwareReset_pending
  | resetNegation =>
    exact KeepsQueue.onlyIf (p := (·.win.resetAsserted = true)) State.negateReset_pending fun _ => rfl
  | runNextExpiry =>
    refine .work exec_row_runNextExpiry fun s => ?_
    split <;> simp
  | divisorLow | divisorHigh | runStart | runStop | capture | alertEnable | outputSet | outputClear | stagePointer
  | stageDataWrite | stageDataRead => exact .live fun _ => rfl

/-- Settles O2: every row answers a next state, and none touches the queue. -/
theorem everyCommandAnswersAndKeepsQueue : Obligations.EveryCommandAnswersAndKeepsQueue := fun c s =>
  ⟨effect c s, exec_effect c s, effect_keepsQueue c s⟩

/-! ## Codes of operations and results, and the values of VECTOR (R102, R168) -/

/-- Every code of the first table is one of 1 to 11. -/
theorem code_range (n : OpName) : 1 ≤ n.code.toNat ∧ n.code.toNat ≤ 11 := by
  cases n <;> decide

/-- A code absent from the first table names no operation. -/
theorem ofCode_of_absent {b : Byte} (h : b.toNat = 0 ∨ 11 < b.toNat) : OpName.ofCode b = none := by
  refine List.find?_eq_none.2 fun n _ hn => ?_
  obtain rfl : n.code = b := beq_iff_eq.1 hn
  have := code_range n
  omega

/-- VECTOR reads NEST FULL, NONE or an entry number. -/
theorem vectorValue_cases (s : State) :
    s.vectorValue = 0x80 ∨ s.vectorValue = 0x81 ∨ s.vectorValue.toNat < 64 := by
  unfold State.vectorValue
  split
  · exact .inr (.inl rfl)
  · split
    · exact .inl rfl
    · next r _ =>
      rw [toNat_byteOfNat_fin r.entry (by decide)]
      exact .inr (.inr r.entry.isLt)

/-- OP RESULT reads the code of the latched result. -/
theorem busRead_opResult {s : State} (hlive : s.Live) : s.busRead 0x1 = some s.lc.opResult.code := by
  rw [State.busRead_live hlive, ← s.finishTick_lc]
  rfl

/-- Settles O20: the tables by evaluation, and the slot, OP RESULT and VECTOR by what their rows leave. -/
theorem operationAndResultCodes : Obligations.OperationAndResultCodes := by
  refine ⟨rfl, OpName.ofCode_code, fun b => ofCode_of_absent, rfl, fun s => busRead_opResult,
    fun s b hlive hslot => ?_, fun s op ph hlive hslot hwork hcode => ?_, fun s hlive => ?_⟩
  · exact ⟨_, _, (live_eq hlive (·.writeOperation b)).trans (congrArg _ (writeOperation_of_empty b hslot)), rfl, rfl⟩
  · exact ⟨_, (unknownOperationOnlyCompletes s hlive).1 op ph hslot hwork (ofCode_of_absent hcode), rfl⟩
  · exact ⟨_, State.busRead_live hlive 0x5, vectorValue_cases s.finishTick⟩

/-! ## Routing of the addresses (R162) -/

/-- A write cycle has the effect that its address is routed to. -/
theorem exec_registerWrite {s : State} (hlive : s.Live) (a : WinAddr) (b : Byte) :
    exec (.registerWrite a b) s = .next (s.busWrite a b) := live_eq hlive (·.busWrite a b)

/-- A write of TIME CONTROL is the row that its RUN and CAPTURE bits name. -/
theorem exec_timeControl {s : State} (hlive : s.Live) (b : Byte) :
    exec (if b.getLsbD 1 then .capture (b.getLsbD 0) else if b.getLsbD 0 then .runStart else .runStop) s =
      .next (s.timeControl (b.getLsbD 0) (b.getLsbD 1)) := by
  cases b.getLsbD 1
  · cases b.getLsbD 0
    · exact live_eq hlive (·.timeControl false false)
    · exact live_eq hlive (·.timeControl true false)
  · exact live_eq hlive (·.timeControl (b.getLsbD 0) true)

/-- The input levels, each line in its own bit, and 0 above (R144). -/
theorem getLsbD_inputLevels (s : State) (n : Fin 8) :
    s.inputLevels.getLsbD n = if h : n.val < 4 then (s.line.ins[n.val]).lastLevel else false := by
  obtain ⟨h0, h1, h2, h3, h4, h5, h6, h7⟩ := getLsbD_byteOfFlags (s.line.ins[0]).lastLevel (s.line.ins[1]).lastLevel
    (s.line.ins[2]).lastLevel (s.line.ins[3]).lastLevel false false false false
  match n with
  | 0 => exact h0
  | 1 => exact h1
  | 2 => exact h2
  | 3 => exact h3
  | 4 => exact h4
  | 5 => exact h5
  | 6 => exact h6
  | 7 => exact h7

theorem toNat_append_viewSelect (source : BitVec 3) (index : BitVec 5) :
    (source ++ index : Byte).toNat = 32 * source.toNat + index.toNat := by
  rw [BitVec.toNat_append, ← Nat.shiftLeft_add_eq_or_of_lt index.isLt, Nat.shiftLeft_eq, Nat.mul_comm]

theorem toNat_setWidth_pointer (p : BitVec 4) : (p.setWidth 8).toNat = p.toNat := by
  have := p.isLt
  rw [BitVec.toNat_setWidth]
  omega

theorem toNat_runByte (run : Bool) : (byteOfFlags run false false false false false false false).toNat = run.toNat := by
  cases run <;> rfl

/-- Settles O53: each write by the operation that its address names, each read by the byte that a tick's rest leaves. -/
theorem addressesRouteWritesAndReads : Obligations.AddressesRouteWritesAndReads := by
  refine ⟨fun s b hlive => ?_, fun s hlive => ?_⟩
  · refine ⟨rfl, rfl, rfl, rfl, rfl, rfl, rfl, rfl, rfl, rfl, ?_, rfl, rfl⟩
    rw [exec_timeControl hlive, exec_registerWrite hlive]
    rfl
  · have read (a : WinAddr) := State.busRead_live hlive a
    have hwin := s.finishTick_win
    obtain ⟨hmask, -⟩ := finishTick_mask_depth s
    exact ⟨busRead_opResult hlive, (read 0x2).trans (congrArg (some ·.entrySelect) hwin),
      ⟨_, read 0x3, (toNat_setWidth_pointer _).trans (congrArg (·.stagePtr.toNat) hwin)⟩,
      (read 0x4).trans (congrArg (fun w : Window => some w.staging[w.stagePtr.toNat]) hwin),
      read 0x5,
      ⟨_, read 0x6, (toNat_append_viewSelect _ _).trans
        (congrArg (fun w : Window => 32 * w.viewSource.toNat + w.viewIndex.toNat) hwin)⟩,
      (read 0x7).trans
        (congrArg (fun w : Window => some (s.finishTick.viewAt w.viewSource w.viewIndex.toNat)) hwin),
      (read 0x8).trans (congrArg some hmask), read 0x9, (read 0xA).trans (congrArg some (finishTick_enables s)),
      ⟨_, read 0xC, fun n => (getLsbD_inputLevels s.finishTick n).trans (by simp only [finishTick_ins])⟩,
      ⟨_, read 0xD, (toNat_runByte _).trans (congrArg (·.run.toNat) s.finishTick_time)⟩⟩

/-! ## A write of CONTROL (R64, R96, R140, R150, R164) -/

/-- The command bits of a CONTROL write, on a state with no tick half taken. -/
def commandBits (q : State) (b : Byte) : State :=
  { q with
    win := { q.win with collision := q.win.collision && !b.getLsbD 2 }
    line := { q.line with captures := if b.getLsbD 3 then q.line.captures.tail else q.line.captures }
    alert := { q.alert with missLog := if b.getLsbD 4 then q.alert.missLog.tail else q.alert.missLog } }

/-- The command bits act first, and then CLEAR ALL or ENABLE. -/
theorem control_eq (s : State) (b : Byte) : s.control b =
    if b.getLsbD 1 then (commandBits s.finishTick b).clearAll
    else { commandBits s.finishTick b with du := { s.finishTick.du with enable := b.getLsbD 0 } } := by
  simp only [State.control]
  generalize s.finishTick = q
  have hcollision : (if b.getLsbD 2 then { q with win := { q.win with collision := false } } else q) =
      { q with win := { q.win with collision := q.win.collision && !b.getLsbD 2 } } := by
    cases b.getLsbD 2 <;> simp
  have hcapture (t : State) : (if b.getLsbD 3 then t.popCapture else t) = { t with line := { t.line with
      captures := if b.getLsbD 3 then t.line.captures.tail else t.line.captures } } := by
    cases b.getLsbD 3 <;> rfl
  have hmiss (t : State) : (if b.getLsbD 4 then t.popMiss else t) = { t with alert := { t.alert with
      missLog := if b.getLsbD 4 then t.alert.missLog.tail else t.alert.missLog } } := by
    cases b.getLsbD 4 <;> rfl
  rw [hcollision, hcapture, hmiss]
  rfl

/-- Settles O50: the five rows are one write, and each bit of it acts at its owner. -/
theorem controlWriteReachesItsOwners : Obligations.ControlWriteReachesItsOwners := by
  intro s b hlive
  have hwrite : live s (·.control b) = .next (if b.getLsbD 1 then (commandBits s.finishTick b).clearAll
      else { commandBits s.finishTick b with du := { s.finishTick.du with enable := b.getLsbD 0 } }) := by
    rw [live_eq hlive, control_eq]
  exact ⟨hwrite, hwrite, hwrite, hwrite, hwrite⟩

/-! ## Clear-all (R34, R38, R68, R98, R99, R120, R132, R146, R159, R165) -/

/-- The output lines of the two states stand on the same base levels. -/
def SameBases (s t : State) : Prop := ∀ l : OutLine, (s.line.outs[l]).base = (t.line.outs[l]).base

/-- A line set to an output line of the same base level in both states. -/
theorem SameBases.setOut {s t : State} (h : SameBases s t) (l : OutLine) {o p : OutputLine} (hop : o.base = p.base) :
    SameBases (s.setOut l o) (t.setOut l p) := fun m => by
  have hset (u : State) (q : OutputLine) : (u.setOut l q).line.outs[m] = if l = m then q else u.line.outs[m] := by
    simp only [State.setOut, Fin.getElem_fin, Vector.getElem_set, Fin.ext_iff]
  rw [hset, hset]
  split
  · exact hop
  · exact h m

/-- An action request moves a base level by that level alone. -/
theorem SameBases.perform {s t : State} (h : SameBases s t) (a : ActionReq) :
    SameBases (s.perform a) (t.perform a) := by
  cases a with
  | set l => exact h.setOut l rfl
  | clear l => exact h.setOut l rfl
  | toggle l => exact h.setOut l (congrArg (!·) (h l))
  | pulse l e => exact h.setOut l (h l)

theorem SameBases.performAll {s t : State} (h : SameBases s t) (as : List ActionReq) :
    SameBases (s.performAll as) (t.performAll as) := by
  induction as generalizing s t with
  | nil => exact h
  | cons a as ih => exact ih (h.perform a)

/-- What is left of a tick releases lines and leaves the base levels. -/
theorem sameBases_finishTick (s : State) : SameBases s.finishTick s := fun l => by
  obtain ⟨d, log, m, gone, h⟩ := Withdrawing.finishTick s.du s.alert.missLog
  rw [h s rfl rfl]
  simp [State.withdrawTo]

/-- Action requests leave the input lines. -/
theorem perform_ins (s : State) (a : ActionReq) : (s.perform a).line.ins = s.line.ins := by
  cases a <;> rfl

theorem performAll_ins (s : State) (as : List ActionReq) : (s.performAll as).line.ins = s.line.ins :=
  foldl_frame _ (·.line.ins) perform_ins as s

/-- What is left of a tick leaves the service limits. -/
theorem finishTick_limits (s : State) : s.finishTick.du.limits = s.du.limits := by
  have hrest := finishStale_rest s
  simp only [DispatchUnit.rest, Prod.mk.injEq] at hrest
  obtain ⟨-, -, -, hlimits, -⟩ := hrest
  rw [State.finishTick, finishOverrun_eq]
  exact hlimits

/-- A clear-all block by block; the action requests reach the output lines alone. -/
theorem clearAll_eq (q : State) : q.clearAll = { q with
    lc := q.lc.cleared
    du := q.du.cleared
    line := (q.performAll q.link.actions).line.cleared
    alert := q.alert.cleared
    win := { q.win with collision := false }
    link := { q.link with posts := [], actions := [] } } := by
  simp only [State.clearAll, State.performAll_time, State.performAll_lc, State.performAll_du, State.performAll_alert,
    State.performAll_win, State.performAll_link, State.performAll_pending]

/-- What each block keeps at a clear-all is in it before the rest of a tick as after it. -/
theorem cleared_finishTick (s : State) : s.finishTick.du.cleared = s.du.cleared ∧
    s.finishTick.alert.cleared = s.alert.cleared := by
  have htaken := TickTaken.finishTick s
  constructor
  · simp only [DispatchUnit.cleared, htaken.enable, htaken.mask, finishTick_limits]
  · simp only [AlertUnit.cleared, finishTick_enables]

/-- Clear-all takes the holders off each output line. -/
theorem cleared_out (u : LineUnit) (l : OutLine) :
    u.cleared.outs[l] = { base := (u.outs[l]).base, holders := [] } := by
  simp only [LineUnit.cleared, Fin.getElem_fin, getElem_mapAll]

/-- Clear-all takes the trigger and the hold-off in progress off each input line. -/
theorem cleared_in (u : LineUnit) (n : InLine) : u.cleared.ins[n] = { u.ins[n] with
    cfg := { (u.ins[n]).cfg with trigger := none }
    counter := 0 } := by
  simp only [LineUnit.cleared, Fin.getElem_fin, getElem_mapAll]

/-- The lines that a clear-all leaves depend on no more of the state before it than the base levels, the input lines and
the requests under way. -/
theorem clearAll_lines {s q : State} (hbases : SameBases q s) (hins : q.line.ins = s.line.ins)
    (hlink : q.link = s.link) :
    (∀ l : OutLine, (q.performAll q.link.actions).line.cleared.outs[l] =
      { base := ((s.link.actions.foldl State.perform s).line.outs[l]).base, holders := [] }) ∧
    (∀ n : InLine, (q.performAll q.link.actions).line.cleared.ins[n] = { s.line.ins[n] with
      cfg := { (s.line.ins[n]).cfg with trigger := none }
      counter := 0 }) := by
  rw [hlink]
  refine ⟨fun l => ?_, fun n => ?_⟩
  · have hbase := hbases.performAll s.link.actions l
    rw [cleared_out, hbase]
    rfl
  · rw [cleared_in, performAll_ins, hins]

/-- Settles O51: the write takes a tick's rest and its command bits first, and none of these touches what the clear-all
keeps. -/
theorem clearAllEmptiesFourBlocks : Obligations.ClearAllEmptiesFourBlocks := by
  intro s b hlive hb
  have hrow : exec (.clearAll b) s = .next (commandBits s.finishTick b).clearAll := by
    refine (live_eq hlive (·.control b)).trans ?_
    rw [control_eq, if_pos hb]
  obtain ⟨hdu, halert⟩ := cleared_finishTick s
  have halert' : (commandBits s.finishTick b).alert.cleared = s.alert.cleared := halert
  obtain ⟨houts, hins⟩ := clearAll_lines (q := commandBits s.finishTick b) (sameBases_finishTick s) (finishTick_ins s)
    s.finishTick_link
  refine ⟨_, _, houts, hins, ?_⟩
  rw [hrow, clearAll_eq, halert']
  simp only [commandBits, hdu, State.finishTick_time, State.finishTick_lc, State.finishTick_link,
    State.finishTick_win, State.finishTick_pending]
  rfl

end Sys2Proof.Machine.RegisterWindow

namespace Sys2Proof.Machine.StepAndReset

/-! # One step, and the reset state

The step function on each form of the queue, and the base of the invariants: the reset state meets every law. -/

/-! ## The two forms of the queue -/

theorem step_of_cons {c : Instr} {rest : List Instr} {s : State} (h : s.pending = c :: rest) :
    step s = exec c { s with pending := rest } := by
  rw [step, h]

theorem step_of_nil {s : State} (h : s.pending = []) : step s = .next s := by
  rw [step, h]

/-- Settles O1: the two forms of the queue. -/
theorem stepTakesFrontCommand : Obligations.StepTakesFrontCommand :=
  ⟨fun _ _ _ => step_of_cons, fun _ => step_of_nil⟩

/-! ## What the tables hold after reset (R34, R131, R145) -/

@[simp] theorem reset_entry (e : EntryNo) : State.reset.entry e = .free := by
  simp only [State.entry, State.reset, ListController.reset, Fin.getElem_fin, Vector.getElem_replicate]

theorem reset_out (l : OutLine) : State.reset.line.outs[l] = .reset := by
  simp only [State.reset, LineUnit.reset, Fin.getElem_fin, Vector.getElem_replicate]

theorem reset_latch (n : InLine) : State.reset.lc.latches[n] = none := by
  simp only [State.reset, ListController.reset, Fin.getElem_fin, Vector.getElem_replicate]

theorem reset_trigger (n : InLine) : State.reset.trigger n = none := by
  simp only [State.trigger, State.reset, LineUnit.reset, Fin.getElem_fin, Vector.getElem_replicate]
  rfl

@[simp] theorem free_timing : Entry.free.timing = .free := rfl

/-! ## The laws, one by one -/

/-- The divisor 0 stands for 65536 (R4), and the phase is 0. -/
theorem reset_phaseLaw : PhaseLaw State.reset := by
  show 0 < effectiveDivisor 0
  decide

/-- Every queue is empty. -/
theorem reset_queueLaw : QueueLaw State.reset where
  pool_bound := Nat.zero_le _
  held_bound := Nat.zero_le _
  held_only_when_full h := absurd rfl h
  stack_bound := Nat.zero_le _
  stack_order := .nil
  captures_bound := Nat.zero_le _
  miss_bound := Nat.zero_le _

/-- No entry is ARMED, and the due list is empty. -/
theorem reset_dueLaw : DueLaw State.reset where
  once := .nil
  exactly_armed e := by
    have hempty : State.reset.lc.dueList = [] := rfl
    simp [hempty]
  due_iff_armed e := by simp [Entry.free]
  remaining_zero e _ := by simp [Entry.free]
  free_cleared e _ := reset_entry e

/-- No entry is defined. -/
theorem reset_definitionLaw : DefinitionLaw State.reset := fun e h => absurd (by simp) h

/-- No entry is defined, and no line has a trigger. -/
theorem reset_referenceLaw : ReferenceLaw State.reset where
  follow_on e _ h := absurd (by simp) h
  trigger n _ h := by simp [reset_trigger n] at h

/-- There is no record, no request under way, and no operation in hand. -/
theorem reset_recordLaw : RecordLaw State.reset where
  waiting_once := .nil
  service_once := .nil
  waiting_matches _ h := absurd h List.not_mem_nil
  service_matches _ h := absurd h List.not_mem_nil
  posts_match _ h := absurd h List.not_mem_nil
  pulses_paired := rfl
  answer_posts _ _ := rfl
  answer_holds _ _ _ h := nomatch h

/-- No entry holds a line. -/
theorem reset_holderLaw : HolderLaw State.reset where
  canonical l := by
    rw [reset_out]
    exact .nil
  has_record l e h := by
    rw [reset_out] at h
    exact absurd h List.not_mem_nil

/-- No entry is ARMED. -/
theorem reset_remainingLaw : RemainingLaw State.reset := fun e h => absurd h (by simp)

/-- The controller is at rest, and nothing waits for it. -/
theorem reset_controllerLaw : ControllerLaw State.reset where
  rest_nothing_waits _ := ⟨rfl, reset_latch, rfl⟩
  run_is_owed h := nomatch h
  latch_is_full _ h := nomatch h
  operation_in_slot _ h := nomatch h
  phase_fits _ _ h := nomatch h

/-- RESET* stands negated. -/
theorem reset_resetLaw : ResetLaw State.reset := fun h => nomatch h

/-- Settles O56: law by law. -/
theorem resetMeetsTheLaws : Obligations.ResetMeetsTheLaws where
  phase := reset_phaseLaw
  queues := reset_queueLaw
  due := reset_dueLaw
  definitions := reset_definitionLaw
  references := reset_referenceLaw
  records := reset_recordLaw
  holders := reset_holderLaw
  remaining := reset_remainingLaw
  controller := reset_controllerLaw
  reset := reset_resetLaw

end Sys2Proof.Machine.StepAndReset

namespace Sys2Proof.Machine.Arms

open ListOperations EventPool

/-! # Arms, cancels and expiries

The statements about the due list's arms and removals, the operations ARM, ARM AT and CANCEL, due processing and the trigger
latches. Every arm is `armWith` and every removal is `stopped`, each one change of the entry table and the due list. -/

/-! ## The two changes of the due list (R36, R37, R39) -/

/-- The due list without an entry that stands in it. -/
def othersDue (s : State) (e : EntryNo) : List EntryNo :=
  if (s.entry e).timing = .armed then s.lc.dueList.erase e else s.lc.dueList

/-- The distance of a member once entry e has this due time. -/
def distanceWith (s : State) (e : EntryNo) (due : Word) (m : EntryNo) : Int :=
  signedDiff (if m = e then due else s.dueOf m) s.time.count

/-- Entry e ARMED with this due time, occurrence number and remaining, in its new place in the due list. -/
def armWith (s : State) (e : EntryNo) (due : Word) (occ rem : Half) : State :=
  s.withList
    (s.lc.entries.set e { s.entry e with timing := .armed, due := some due, remaining := rem, occurrence := occ })
    (insertBy (distanceWith s e due) e (othersDue s e))

/-- Entry e IDLE with this occurrence number, and out of the due list. -/
def stopped (s : State) (e : EntryNo) (occ : Half) : State :=
  s.withList (s.lc.entries.set e { s.entry e with timing := .idle, due := none, remaining := 0, occurrence := occ })
    (s.lc.dueList.erase e)

/-- A removal keeps the occurrence number. -/
theorem removeDue_eq_stopped (s : State) (e : EntryNo) : s.removeDue e = stopped s e (s.entry e).occurrence := rfl

/-- A record written over another. -/
theorem withList_entry (s : State) (e f : EntryNo) (en : Entry) (l : List EntryNo) :
    (s.withList (s.lc.entries.set e en) l).entry f = if f = e then en else s.entry f :=
  s.entry_setEntry e f en

theorem entry_armWith (s : State) (e f : EntryNo) (due : Word) (occ rem : Half) :
    (armWith s e due occ rem).entry f = if f = e then
      { s.entry e with timing := .armed, due := some due, remaining := rem, occurrence := occ } else s.entry f :=
  withList_entry s e f _ _

theorem entry_stopped (s : State) (e f : EntryNo) (occ : Half) :
    (stopped s e occ).entry f = if f = e then
      { s.entry e with timing := .idle, due := none, remaining := 0, occurrence := occ } else s.entry f :=
  withList_entry s e f _ _

/-- An insertion with the occurrence number and the remaining of its arming. -/
theorem insertDue_eq (s : State) (e : EntryNo) (due : Word) (occ rem : Half) :
    (s.insertDue e due).setEntry e { (s.insertDue e due).entry e with occurrence := occ, remaining := rem } =
      s.withList
        (s.lc.entries.set e { s.entry e with timing := .armed, due := some due, remaining := rem, occurrence := occ })
        (insertBy (distanceWith s e due) e s.lc.dueList) := by
  have hdist : (fun m => distance ((s.setEntry e { s.entry e with timing := .armed, due := some due }).dueOf m)
      s.time.count) = distanceWith s e due := by
    funext m
    simp only [State.dueOf, State.entry_setEntry, distance, distanceWith]
    split <;> rfl
  rw [State.entry_insertDue, if_pos rfl]
  simp only [State.insertDue, State.setEntry, State.withList, Vector.set_set] at hdist ⊢
  rw [hdist]

/-- The entry leaves its old place first, and its own record is then written whole. -/
theorem armWith_disarm (s : State) (e : EntryNo) (due : Word) (occ rem : Half) :
    ((s.disarm e).insertDue e due).setEntry e
      { ((s.disarm e).insertDue e due).entry e with occurrence := occ, remaining := rem } =
      armWith s e due occ rem := by
  rw [insertDue_eq]
  by_cases harmed : (s.entry e).timing = .armed
  · have hdist : distanceWith (s.removeDue e) e due = distanceWith s e due := by
      funext m
      simp only [distanceWith, State.dueOf, State.entry_removeDue, State.removeDue_time]
      split <;> rfl
    simp only [State.disarm, if_pos harmed, hdist, State.entry_removeDue, armWith, othersDue, if_true]
    simp only [State.removeDue_eq, State.withList, Vector.set_set]
  · simp only [State.disarm, if_neg harmed, armWith, othersDue]

/-- A fresh arm is one change of the table and the list (R39). -/
theorem freshArm_eq (s : State) (e : EntryNo) (due : Word) :
    s.freshArm e due = armWith s e due 0 (s.entry e).defn.firstRemaining := by
  have hdefn : (((s.disarm e).insertDue e due).entry e).defn = (s.entry e).defn := by
    rw [State.entry_insertDue, if_pos rfl, State.disarm]
    split
    · rw [State.entry_removeDue, if_pos rfl]
    · rfl
  rw [State.freshArm, hdefn, armWith_disarm]

/-- Settles O23: the closed form of a fresh arm. -/
theorem freshArmEffect : Obligations.FreshArmEffect := fun s e due => freshArm_eq s e due

/-! ## ARM and ARM AT (R40 to R42) -/

section
variable {s : State} {op : HostOp} {ph : OpPhase}

theorem exec_arm (hlive : s.Live) (hc : s.Carries .arm op ph) (span : Span) : exec (.arm span) s =
    .next (s.doArm op ph span (s.checkDefined op) fun e => s.time.count + (s.entry e).defn.delay) :=
  liveWork_carries hlive hc fun s op ph =>
    s.doArm op ph span (s.checkDefined op) fun e => s.time.count + (s.entry e).defn.delay

theorem exec_armAt (hlive : s.Live) (hc : s.Carries .armAt op ph) (span : Span) :
    exec (.armAt span) s = .next (s.doArm op ph span (s.checkArmAt op) fun _ => op.time) :=
  liveWork_carries hlive hc fun s op ph => s.doArm op ph span (s.checkArmAt op) fun _ => op.time

theorem exec_cancel (hlive : s.Live) (hc : s.Carries .cancel op ph) : exec .cancel s = .next (s.doCancel op ph) :=
  liveWork_carries hlive hc State.doCancel

/-- An entry select that names no entry (R15). -/
theorem checkDefined_badEntry (s : State) (h : op.NamesNone) : s.checkDefined op = .badEntry := by
  rw [State.checkDefined, HostOp.entry?_none h]

theorem checkDefined_entryFree {e : EntryNo} (h : op.Names e) (hfree : (s.entry e).timing = .free) :
    s.checkDefined op = .entryFree := by
  simp only [State.checkDefined, HostOp.entry?_some h, if_pos hfree]

/-- A check that fails arms nothing. -/
theorem armIf_refused {r : Result} (h : r ≠ .complete) (t : EntryNo → Word) : s.armIf r op t = s := by
  unfold State.armIf
  split
  · exact absurd rfl h
  · rfl

theorem armIf_complete {e : EntryNo} (h : op.Names e) (t : EntryNo → Word) :
    s.armIf .complete op t = s.freshArm e (t e) := by
  simp only [State.armIf, HostOp.entry?_some h]

/-- The check of the due time comes after the checks of the entry (R41). -/
theorem checkArmAt_refused {r : Result} (hcheck : s.checkDefined op = r) (h : r ≠ .complete) :
    s.checkArmAt op = r := by
  unfold State.checkArmAt
  split
  · next heq => exact absurd (hcheck.symm.trans heq) h
  · exact hcheck

theorem checkArmAt_complete {e : EntryNo} (hname : op.Names e) (hdef : (s.entry e).timing ≠ .free) :
    s.checkArmAt op = if inFuture op.time s.time.count then .complete else .pastDue := by
  simp only [State.checkArmAt, checkDefined_complete hname hdef]

end

/-- What ARM and ARM AT leave, by the span of their command (R42). -/
theorem doArm_started (s : State) (op : HostOp) (r : Result) (t : EntryNo → Word) :
    s.doArm op .started .whole r t = (s.armIf r op t).complete r ∧
    s.doArm op .started .carryOut r t = (s.armIf r op t).setWork (.operation (.carriedOut r)) := ⟨rfl, rfl⟩

/-- Settles O24: each check of ARM by its result, and the arm when all pass. -/
theorem armResults : Obligations.ArmResults := by
  intro s op hlive hc
  simp only [exec_arm hlive hc, doArm_started]
  refine ⟨fun hnone => ?_, fun e hname hfree => ?_, fun e hname hdef => ?_⟩
  · rw [checkDefined_badEntry s hnone, armIf_refused (by decide)]
    exact ⟨rfl, rfl⟩
  · rw [checkDefined_entryFree hname hfree, armIf_refused (by decide)]
    exact ⟨rfl, rfl⟩
  · rw [checkDefined_complete hname hdef, armIf_complete hname]
    exact ⟨rfl, rfl⟩

/-- Settles O25: each check of ARM AT by its result, and the arm when all pass. -/
theorem armAtResults : Obligations.ArmAtResults := by
  intro s op hlive hc
  simp only [exec_armAt hlive hc, doArm_started]
  have hfuture : inFuture op.time s.time.count = true ↔
      1 ≤ signedDiff (op.image[3] ++ op.image[2] ++ op.image[1] ++ op.image[0]) s.time.count := by
    simp only [inFuture, decide_eq_true_eq]
    rfl
  refine ⟨fun hnone => ?_, fun e hname hfree => ?_, fun e hname hdef hpast => ?_, fun e hname hdef hlater => ?_⟩
  · rw [checkArmAt_refused (checkDefined_badEntry s hnone) (by decide), armIf_refused (by decide)]
    exact ⟨rfl, rfl⟩
  · rw [checkArmAt_refused (checkDefined_entryFree hname hfree) (by decide), armIf_refused (by decide)]
    exact ⟨rfl, rfl⟩
  · have hno : ¬ inFuture op.time s.time.count = true := by
      rw [hfuture]
      omega
    rw [checkArmAt_complete hname hdef, if_neg hno, armIf_refused (by decide)]
    exact ⟨rfl, rfl⟩
  · rw [checkArmAt_complete hname hdef, if_pos (hfuture.2 hlater), armIf_complete hname]
    exact ⟨rfl, rfl⟩

/-! ## CANCEL (R43, R44) -/

/-- A check of CANCEL that fails completes it. -/
theorem doCancel_refused {s : State} {op : HostOp} {r : Result} (hcheck : s.checkDefined op = r) (h : r ≠ .complete) :
    s.doCancel op .started = s.complete r := by
  subst hcheck
  unfold State.doCancel
  split
  · next heq => cases heq
  · next hr _ _ => exact absurd hr h
  · rfl

theorem doCancel_complete {s : State} {op : HostOp} {e : EntryNo} (hname : op.Names e)
    (hdef : (s.entry e).timing ≠ .free) :
    s.doCancel op .started = (s.carryCancel op e).1.complete (s.carryCancel op e).2 := by
  simp only [State.doCancel, checkDefined_complete hname hdef, HostOp.entry?_some hname]

/-- Settles O26: each check of CANCEL by its result, and the list side with the request when all pass. -/
theorem cancelResults : Obligations.CancelResults := by
  intro s op hlive hc
  rw [exec_cancel hlive hc]
  refine ⟨fun hnone => ?_, fun e hname hfree => ?_, fun e hname hdef => ?_⟩
  · rw [doCancel_refused (checkDefined_badEntry s hnone) (by decide)]
  · rw [doCancel_refused (checkDefined_entryFree hname hfree) (by decide)]
  · rw [doCancel_complete hname hdef]
    simp only [State.carryCancel, State.sendCancel, cancelResult_eq]
    rfl

/-! ## Completion of what has been carried out (R42, R44, R70, R75, R76) -/

/-- Settles O31: each operation in the phase `carriedOut` goes straight to its completion. -/
theorem operationsCarriedOutOnlyComplete : Obligations.OperationsCarriedOutOnlyComplete := fun _ _ hlive =>
  ⟨fun _ sp hc => exec_arm hlive hc sp, fun _ sp hc => exec_armAt hlive hc sp, fun _ hc => exec_cancel hlive hc,
    fun _ hc => exec_clearClass hlive hc, fun _ hc => exec_configureLine hlive hc,
    fun _ hc => exec_configureClass hlive hc⟩

/-! ## Ticks at the list controller, and runs (R46 to R48, R59) -/

/-- Settles O33: the mark is set, and the controller at rest chooses the run that is owed. -/
theorem listControllerTickOwesARun : Obligations.ListControllerTickOwesARun := by
  intro s hlive
  have hrow : exec .listControllerTick s = .next (if s.link.ticksToList = 0 then s else s.takeListTick) :=
    live_eq hlive fun s => if s.link.ticksToList = 0 then s else s.takeListTick
  rw [hrow]
  refine ⟨fun hnone => by rw [if_pos hnone], fun k hk => ?_⟩
  rw [if_neg (by omega), State.takeListTick, wake_eq_setWork, choose_of_owed rfl, hk]
  rfl

/-- A run that has been taken starts. -/
theorem exec_dueProcessingRun_starts {s : State} (hlive : s.Live) (hwork : s.lc.work = .run none) :
    exec .dueProcessingRun s = .next s.startRun := by
  have hend : s.atEnd = false := by simp [State.atEnd, hwork]
  rw [exec_row_dueProcessingRun, execDueProcessingRun, liveWork_eq hlive, State.settle_not hend, if_pos hwork]

/-- A run under way with a head due at its limit takes it. -/
theorem exec_runNextExpiry_takes {s : State} {limit : Word} {e : EntryNo} (hlive : s.Live)
    (hwork : s.lc.work = .run (some limit)) (hhead : s.dueHead limit = some e) :
    exec .runNextExpiry s = .next (s.expire e) := by
  have hend : s.atEnd = false := by simp [State.atEnd, hwork, hhead]
  rw [exec_row_runNextExpiry, execRunNextExpiry, liveWork_eq hlive, State.settle_not hend]
  simp only [hwork, State.runExpiry, hhead]

/-- A run under way with no head due at its limit ends. -/
theorem exec_runNextExpiry_ends {s : State} {limit : Word} (hlive : s.Live) (hwork : s.lc.work = .run (some limit))
    (hhead : s.dueHead limit = none) : exec .runNextExpiry s = .next s.endWork :=
  exec_runNextExpiry_atEnd hlive (by simp [State.atEnd, hwork, hhead])

/-- The head of a list that is not empty, by whether it is due. -/
theorem dueHead_cons {s : State} {e : EntryNo} {l : List EntryNo} (h : s.lc.dueList = e :: l) (limit : Word) :
    s.dueHead limit = if isDue (s.dueOf e) limit then some e else none := by
  rw [State.dueHead, h]

theorem dueHead_nil {s : State} (h : s.lc.dueList = []) (limit : Word) : s.dueHead limit = none := by
  rw [State.dueHead, h]

theorem runExpiry_nil {s : State} (h : s.lc.dueList = []) (limit : Word) : s.runExpiry limit = s := by
  rw [State.runExpiry, dueHead_nil h]

theorem runExpiry_cons {s : State} {e : EntryNo} {l : List EntryNo} (h : s.lc.dueList = e :: l) (limit : Word) :
    s.runExpiry limit = if isDue (s.dueOf e) limit = true then s.expire e else s := by
  rw [State.runExpiry, dueHead_cons h]
  cases isDue (s.dueOf e) limit <;> rfl

/-- Settles O34: the start and each further step by the head of the list. -/
theorem runExpiresHeadsDueAtItsLimit : Obligations.RunExpiresHeadsDueAtItsLimit := by
  intro s limit hlive
  refine ⟨fun hwork hlimit => ?_, fun hwork => ⟨fun hnil => ?_, fun e l hcons => ?_⟩⟩
  · subst hlimit
    rw [exec_dueProcessingRun_starts hlive hwork, State.startRun]
    exact ⟨fun hnil => by rw [runExpiry_nil (by exact hnil)], fun e l hcons => by
      rw [runExpiry_cons (by exact hcons)]
      rfl⟩
  · exact exec_runNextExpiry_ends hlive hwork (dueHead_nil hnil limit)
  · have hhead := dueHead_cons hcons limit
    by_cases hdue : isDue (s.dueOf e) limit = true
    · rw [if_pos hdue] at hhead ⊢
      exact exec_runNextExpiry_takes hlive hwork hhead
    · rw [if_neg hdue] at hhead ⊢
      exact exec_runNextExpiry_ends hlive hwork hhead

/-! ## One expiry (R49 to R53) -/

/-- The requests of an expiry of entry e are under way (R50, R51). -/
def issued (s : State) (e : EntryNo) : State :=
  s.issue (s.entry e).defn e ((s.entry e).occurrence + 1) (s.dueOf e)

/-- An expiry ends the old arming first, with its occurrence number counted and its requests issued (R49 to R51). -/
theorem expire_eq (s : State) (e : EntryNo) : s.expire e =
    (stopped (issued s e) e ((s.entry e).occurrence + 1)).continueSeries (s.entry e).defn e (s.entry e).remaining
      (s.dueOf e) := by
  have hstop : (s.removeDue e).setEntry e
      { (s.removeDue e).entry e with occurrence := (s.entry e).occurrence + 1 } =
      stopped s e ((s.entry e).occurrence + 1) := by
    rw [State.entry_removeDue, if_pos rfl, State.removeDue_eq]
    simp only [State.setEntry, State.withList, stopped, Vector.set_set]
  rw [State.expire]
  simp only [hstop]
  rfl

/-- The distances do not depend on the old due time of the entry. -/
theorem distanceWith_stopped (s : State) (e : EntryNo) (occ : Half) (due : Word) :
    distanceWith (stopped s e occ) e due = distanceWith s e due := by
  funext m
  simp only [distanceWith, State.dueOf, entry_stopped]
  split <;> rfl

/-- The series goes on: the entry is back in the list, one period later, as one change of it (R52). -/
theorem expire_continues {s : State} {e : EntryNo}
    (h : (s.entry e).defn.continues (s.entry e).remaining = true) :
    s.expire e = (issued s e).withList
      (s.lc.entries.set e { s.entry e with
        timing := .armed
        due := some (s.dueOf e + (s.entry e).defn.period.getD 0)
        remaining := (s.entry e).defn.nextRemaining (s.entry e).remaining
        occurrence := (s.entry e).occurrence + 1 })
      (insertBy (distanceWith s e (s.dueOf e + (s.entry e).defn.period.getD 0)) e (s.lc.dueList.erase e)) := by
  have hrearm := insertDue_eq (stopped (issued s e) e ((s.entry e).occurrence + 1)) e
    (s.dueOf e + (s.entry e).defn.period.getD 0) ((s.entry e).occurrence + 1)
    ((s.entry e).defn.nextRemaining (s.entry e).remaining)
  rw [distanceWith_stopped, State.entry_insertDue, if_pos rfl, entry_stopped, if_pos rfl] at hrearm
  rw [expire_eq, State.continueSeries, if_pos h]
  simp only [State.entry_insertDue, if_true, entry_stopped]
  refine hrearm.trans ?_
  simp only [stopped, State.withList, Vector.set_set]
  rfl

/-- The series ends, and no entry follows on (R53). -/
theorem expire_ends {s : State} {e : EntryNo} (h : (s.entry e).defn.continues (s.entry e).remaining = false)
    (hnone : (s.entry e).defn.followOn = none) :
    s.expire e = stopped (issued s e) e ((s.entry e).occurrence + 1) := by
  simp only [expire_eq, State.continueSeries, h, hnone, Bool.false_eq_true, if_false]

/-- The series ends, with the follow-on arm (R53). -/
theorem expire_follows {s : State} {e f : EntryNo}
    (h : (s.entry e).defn.continues (s.entry e).remaining = false) (hf : (s.entry e).defn.followOn = some f) :
    s.expire e = (stopped (issued s e) e ((s.entry e).occurrence + 1)).policyArm f (s.dueOf e) := by
  simp only [expire_eq, State.continueSeries, h, hf, Bool.false_eq_true, if_false]

/-- A periodic series goes on when its entry is unlimited or has occurrences left (R52). -/
theorem continues_iff (d : Definition) (saved : Half) :
    d.continues saved = true ↔ d.period.isSome = true ∧ (d.repeatLimit = 0 ∨ 2 ≤ saved.toNat) := by
  simp [Definition.continues]

/-- An arm by the policy takes an entry that is IDLE, or ARMED with RESTART (R19). -/
theorem takesArm_iff (en : Entry) :
    en.takesArm = true ↔ en.timing = .idle ∨ (en.timing = .armed ∧ en.defn.policy = .restart) := by
  unfold Entry.takesArm
  cases en.timing <;> simp

/-- The requests of an expiry, as they join the queues (R50, R51). -/
theorem issued_eq (s : State) (e : EntryNo) : issued s e = { s with link := { s.link with
    posts := s.link.posts ++ (if (s.entry e).defn.delivery = .post then
      [(s.entry e).defn.postReq e ((s.entry e).occurrence + 1) (s.dueOf e) s.time.count] else [])
    actions := s.link.actions ++ (match (s.entry e).defn.output with
      | none => []
      | some o => [o.request e]) } } := by
  unfold issued State.issue
  cases (s.entry e).defn.output <;> by_cases hpost : (s.entry e).defn.delivery = .post <;> simp [hpost]

/-- Settles O35: the requests in closed form, and the continuation by its two cases. -/
theorem expiryEffect : Obligations.ExpiryEffect := by
  intro s e
  refine ⟨fun p hperiod hmore => ?_, fun hend => ?_⟩
  · have hcont := (continues_iff (s.entry e).defn (s.entry e).remaining).2 ⟨by simp [hperiod], hmore⟩
    rw [expire_continues hcont, issued_eq, hperiod]
    rfl
  · have hcont : (s.entry e).defn.continues (s.entry e).remaining = false := by
      rw [Bool.eq_false_iff, ne_eq, continues_iff, Option.isSome_iff_ne_none]
      rintro ⟨hperiod, hmore⟩
      rcases hend with hnone | ⟨hlimit, hlast⟩
      · exact hperiod hnone
      · exact hmore.elim hlimit fun h => by omega
    refine ⟨fun hnone => ?_, fun f hf => ?_⟩
    · rw [expire_ends hcont hnone, issued_eq]
      rfl
    · simp only [expire_follows hcont hf, issued_eq, State.policyArm, takesArm_iff]
      rfl

/-! ## The service of a latch (R56, R57) -/

/-- The latch that has been taken is served. -/
theorem exec_triggerArm_serves {s : State} {n : InLine} (hlive : s.Live) (hwork : s.lc.work = .latch n) :
    exec .triggerArm s = .next ((s.serveLatch n).setWork .latchServed) := by
  have hend : s.atEnd = false := by simp [State.atEnd, hwork]
  rw [exec_row_triggerArm, execTriggerArm, liveWork_eq hlive, State.settle_not hend]
  simp only [hwork]

/-- A latch that is empty, or whose line has no trigger, arms nothing. -/
theorem serveLatch_absent {s : State} {n : InLine} (h : s.lc.latches[n] = none ∨ s.trigger n = none) :
    s.serveLatch n = s.setLatch n none := by
  unfold State.serveLatch
  split
  · next ht hx => rcases h with h | h <;> simp_all
  · rfl

theorem serveLatch_full {s : State} {n : InLine} {t : Word} {x : EntryNo} (ht : s.lc.latches[n] = some t)
    (hx : s.trigger n = some x) : s.serveLatch n = (s.setLatch n none).triggerArm x t := by
  simp only [State.serveLatch, ht, hx]

/-- Settles O36: the latch empties, and the trigger arm goes by the policy and the count. -/
theorem triggerArmServesTheLatch : Obligations.TriggerArmServesTheLatch := by
  intro s n hlive hwork
  simp only [exec_triggerArm_serves hlive hwork]
  refine ⟨fun habsent => by rw [serveLatch_absent habsent]; rfl, fun t x ht hx => ?_⟩
  have hentry : (s.setLatch n none).entry x = s.entry x := rfl
  rw [serveLatch_full ht hx, State.triggerArm, State.policyArm, hentry]
  refine ⟨fun hno => ?_, fun harms hlater => ?_, fun harms hdue => ?_⟩
  · rw [← takesArm_iff, Bool.not_eq_true] at hno
    simp only [hno]
    rfl
  · rw [← takesArm_iff] at harms
    simp only [harms, State.setLatch, hlater]
    rfl
  · rw [← takesArm_iff] at harms
    simp only [harms, State.setLatch, hdue]
    rfl

end Sys2Proof.Machine.Arms

namespace Sys2Proof.Machine.TimeBaseRows

open ListOperations EventPool

/-! # Time base

The statements about the divisor, TIME CONTROL, the TBCLK edge, the comparison of times, and what reaches the time base. -/

/-! ## DIVISOR and TIME CONTROL (R5, R10, R11) -/

/-- Settles O4: each write by its own operation, each read by the byte after a tick's rest, which leaves the time base. -/
theorem divisorWritesAndReads : Obligations.DivisorWritesAndReads := by
  refine ⟨fun s b hlive => ⟨live_eq hlive (·.divisorLow b), live_eq hlive (·.divisorHigh b)⟩, fun s hlive => ?_,
    fun b => ⟨_, live_eq (s := State.reset) rfl (·.divisorHigh b), rfl⟩⟩
  rw [State.busRead_live hlive, State.busRead_live hlive, ← s.finishTick_time]
  exact ⟨rfl, rfl⟩

/-- A start from a standstill sets the phase to 0 (R10). -/
theorem writeRun_true (t : TimeBase) : t.writeRun true = { t with run := true, phase := if t.run then t.phase else 0 } := by
  cases h : t.run <;> simp [TimeBase.writeRun, h]

/-- Settles O5: the RUN effect of each row, after the snapshot of the count and the phase. -/
theorem timeControlWrites : Obligations.TimeControlWrites := by
  intro s hlive
  have hrow (run capture : Bool) : live s (·.timeControl run capture) =
      .next { s with time := (if capture then s.time.snap else s.time).writeRun run } := live_eq hlive _
  refine ⟨(hrow true false).trans ?_, hrow false false, (hrow true true).trans ?_, hrow false true⟩
  · simp only [Bool.false_eq_true, if_false, writeRun_true]
  · simp only [if_true, writeRun_true]
    rfl

/-! ## The TBCLK edge (R2 to R4, R7) -/

/-- The edge that completes the interval, by the effective divisor (R4). -/
theorem lastEdge_iff (t : TimeBase) :
    t.lastEdge = true ↔ (if t.activeDivisor = 0 then 65536 else t.activeDivisor.toNat) ≤ t.phase.toNat + 1 := by
  rw [TimeBase.lastEdge, decide_eq_true_iff, effectiveDivisor]

/-- What an edge makes of the machine, by RUN and by whether it completes the interval. -/
theorem tbclk_stopped {s : State} (h : s.time.run = false) : s.tbclk = s := by
  simp [State.tbclk, h]

theorem tbclk_counted {s : State} (h : s.time.run = true) (hlast : s.time.lastEdge = false) :
    s.tbclk = { s with time := { s.time with phase := s.time.phase + 1 } } := by
  simp [State.tbclk, h, hlast]

theorem tbclk_completes {s : State} (h : s.time.run = true) (hlast : s.time.lastEdge = true) : s.tbclk = s.makeTick := by
  simp [State.tbclk, h, hlast]

theorem exec_tbclkEdge {s : State} (hlive : s.Live) : exec .tbclkEdge s = .next s.tbclk := live_eq hlive State.tbclk

theorem exec_tick {s : State} (hlive : s.Live) :
    exec .tick s = .next (if s.time.run && s.time.lastEdge then s.makeTick else s) :=
  live_eq hlive fun s => if s.time.run && s.time.lastEdge then s.makeTick else s

/-- Settles O6: the edge by its three cases, and TICK as the last of them alone. -/
theorem edgeAdvancesPhaseOrTicks : Obligations.EdgeAdvancesPhaseOrTicks := by
  intro s hlive
  rw [exec_tbclkEdge hlive, exec_tick hlive]
  refine ⟨fun hrun => ?_, fun hrun hmore => ?_, fun hrun hlast => ?_⟩
  · simp [tbclk_stopped hrun, hrun]
  · have hlast : s.time.lastEdge = false := by
      rw [Bool.eq_false_iff, ne_eq, lastEdge_iff]
      exact not_le.2 hmore
    simp [tbclk_counted hrun hlast, hlast]
  · have hlast' := (lastEdge_iff s.time).2 hlast
    rw [tbclk_completes hrun hlast', if_pos (by simp [hrun, hlast'])]
    exact ⟨rfl, rfl⟩

/-! ## The comparison of times (R9) -/

theorem signedDiff_eq (a b : Word) : signedDiff a b =
    if (a - b).toNat < 2 ^ 31 then ((a - b).toNat : Int) else ((a - b).toNat : Int) - 2 ^ 32 := by
  rw [signedDiff, BitVec.toInt_eq_toNat_cond]
  split <;> split <;> omega

theorem isDue_iff (t n : Word) : isDue t n = true ↔ 0 ≤ signedDiff n t := by simp [isDue]

theorem inFuture_iff (t n : Word) : inFuture t n = true ↔ 1 ≤ signedDiff t n := by simp [inFuture]

/-- The one time that is neither due nor in the future is the one half of the range away. -/
theorem neither_iff (t n : Word) :
    (isDue t n = false ∧ inFuture t n = false) ↔ t = n + 0x80000000#32 := by
  have ht := t.isLt
  have hn := n.isLt
  rw [Bool.eq_false_iff, Bool.eq_false_iff, ne_eq, ne_eq, isDue_iff, inFuture_iff, signedDiff_eq, signedDiff_eq,
    ← BitVec.toNat_inj, BitVec.toNat_sub, BitVec.toNat_sub, BitVec.toNat_add]
  simp only [BitVec.toNat_ofNat]
  split <;> split <;> omega

/-- Settles O8: the signed difference by its value modulo 2³². -/
theorem timesCompareBySignedDifference : Obligations.TimesCompareBySignedDifference := by
  refine ⟨signedDiff_eq, fun t n => ⟨isDue_iff t n, inFuture_iff t n⟩, neither_iff, fun n d hlow hhigh => ?_⟩
  have hsub : n + d - n = d := by
    rw [BitVec.add_comm, BitVec.add_sub_cancel]
  rw [inFuture_iff, signedDiff_eq, hsub, if_pos hhigh]
  omega

/-! ## What reaches the time base (R1, R8, R13, R165) -/

/-- The change leaves the time base. -/
def KeepsTime (f : State → State) : Prop := ∀ s, (f s).time = s.time

theorem doDefine_time (s : State) (op : HostOp) (ph : OpPhase) : (s.doDefine op ph).time = s.time := by
  unfold State.doDefine
  split
  · rfl
  · dsimp only
    split
    · rfl
    · split
      · simp
      · split <;> simp

theorem doRelease_time (s : State) (op : HostOp) (ph : OpPhase) : (s.doRelease op ph).time = s.time := by
  unfold State.doRelease
  split
  · rfl
  · split
    · rfl
    · rfl
    · dsimp only
      split
      · simp
      · split <;> simp

theorem doReadDefinition_time (s : State) (op : HostOp) : (s.doReadDefinition op).time = s.time := by
  unfold State.doReadDefinition
  split
  · rfl
  · split <;> rfl

theorem doReadState_time (s : State) (op : HostOp) (ph : OpPhase) : (s.doReadState op ph).time = s.time := by
  unfold State.doReadState
  split <;> simp

theorem doArm_time (s : State) (op : HostOp) (ph : OpPhase) (span : Span) (r : Result) (t : EntryNo → Word) :
    (s.doArm op ph span r t).time = s.time := by
  unfold State.doArm
  split
  · rfl
  · cases span <;> simp

theorem doCancel_time (s : State) (op : HostOp) (ph : OpPhase) : (s.doCancel op ph).time = s.time := by
  unfold State.doCancel
  split <;> simp

theorem doClearClass_time (s : State) (op : HostOp) (ph : OpPhase) : (s.doClearClass op ph).time = s.time := by
  unfold State.doClearClass
  split <;> simp

theorem doWalkCompletion_time (s : State) (ph : OpPhase) : (s.doWalkCompletion ph).time = s.time := by
  unfold State.doWalkCompletion
  split <;> simp

theorem doConfigureLine_time (s : State) (op : HostOp) (ph : OpPhase) : (s.doConfigureLine op ph).time = s.time := by
  unfold State.doConfigureLine
  split
  · rfl
  · split <;> simp

theorem doConfigureClass_time (s : State) (op : HostOp) (ph : OpPhase) : (s.doConfigureClass op ph).time = s.time := by
  unfold State.doConfigureClass
  split <;> simp

/-- Below DIVISOR and TIME CONTROL no address reaches the time base. -/
theorem busWrite_time (s : State) {a : WinAddr} (ha : a.toNat < 13) (b : Byte) : (s.busWrite a b).time = s.time := by
  unfold State.busWrite
  split
  · exact s.control_time b
  · exact s.writeOperation_time b
  · rfl
  · rfl
  · rfl
  · exact s.writeDone_time b
  · rfl
  · rfl
  · exact s.writeMask_time b
  · exact s.alertClear_time b
  · rfl
  · rfl
  · rfl
  · omega
  · omega
  · simp only [imp_false] at *
    omega

namespace KeepsTime

variable {f : State → State}

/-- One of two changes that keep the time base. -/
theorem onlyIf {p : State → Prop} [DecidablePred p] {g : State → State} (hf : KeepsTime f) (hg : KeepsTime g) :
    KeepsTime fun s => if p s then f s else g s := fun s => by
  dsimp only
  split
  · exact hf s
  · exact hg s

/-- A command that RESET* holds off. -/
theorem live (hf : KeepsTime f) : KeepsTime (whenLive f) := onlyIf (fun _ => rfl) hf

/-- A row of the controller's work: the end of the piece before it keeps the time base. -/
theorem work {c : Instr} (hc : ∀ s, exec c s = liveWork s f) (hf : KeepsTime f) : KeepsTime (effect c) := by
  rw [effect_of_work hc]
  exact live fun s => (hf s.settle).trans s.settle_time

/-- A row of an operation: its step, or nothing. -/
theorem operation {c : Instr} {n : OpName} {f : State → HostOp → OpPhase → State}
    (hc : ∀ s, exec c s = liveWork s fun s => s.onOperation n (f s))
    (hf : ∀ s op ph, (f s op ph).time = s.time) : KeepsTime (effect c) :=
  work hc fun s => by
    rcases onOperation_cases s n (f s) with heq | ⟨op, ph, _, heq⟩
    · rw [heq]
    · rw [heq, hf]

end KeepsTime

/-- The rows that reach the time base: its own, SET TIME, and RESET*; and a write of an address of 0DH to 0FH. -/
def reachesTime : Instr → Bool
  | .tbclkEdge | .tick | .divisorLow _ | .divisorHigh _ | .runStart | .runStop | .capture _ | .setTime
  | .hardwareReset => true
  | .registerWrite a _ => decide (13 ≤ a.toNat)
  | _ => false

theorem effect_keepsTime {c : Instr} (h : reachesTime c = false) : KeepsTime (effect c) := by
  cases c with
  | tbclkEdge | tick | divisorLow | divisorHigh | runStart | runStop | capture | setTime | hardwareReset => cases h
  | listControllerTick => exact .live (.onlyIf (fun _ => rfl) State.takeListTick_time)
  | dispatchTick => exact .live (.onlyIf (fun _ => rfl) State.takeDispatchTick_time)
  | staleWithdrawal => exact .live State.finishStale_time
  | serviceOverrun => exact .live State.finishOverrun_time
  | lineUnitTick => exact .live (.onlyIf (fun _ => rfl) State.takeLineTick_time)
  | operation code => exact .live (·.writeOperation_time code)
  | define => exact .operation exec_row_define doDefine_time
  | release => exact .operation exec_row_release doRelease_time
  | readDefinition => exact .operation exec_row_readDefinition fun s op _ => doReadDefinition_time s op
  | readState => exact .operation exec_row_readState doReadState_time
  | arm span => exact .operation (exec_row_arm span) fun s op ph => doArm_time s op ph span _ _
  | armAt span => exact .operation (exec_row_armAt span) fun s op ph => doArm_time s op ph span _ _
  | cancel => exact .operation exec_row_cancel doCancel_time
  | clearClass => exact .operation exec_row_clearClass doClearClass_time
  | setTimeWalkCompletion => exact .operation exec_row_setTimeWalkCompletion fun s _ ph => doWalkCompletion_time s ph
  | configureLine => exact .operation exec_row_configureLine doConfigureLine_time
  | configureClass => exact .operation exec_row_configureClass doConfigureClass_time
  | unknownOperation =>
    refine .work exec_row_unknownOperation fun s => ?_
    split
    · split <;> rfl
    · rfl
  | dueProcessingRun => exact .work exec_row_dueProcessingRun (.onlyIf State.startRun_time fun _ => rfl)
  | triggerArm =>
    refine .work exec_row_triggerArm fun s => ?_
    split <;> simp
  | postRequest => exact .live State.takeNextPost_time
  | cancelRequest =>
    refine .operation exec_row_cancelRequest fun s op ph => ?_
    split <;> simp
  | clearRequest =>
    refine .operation exec_row_clearRequest fun s op ph => ?_
    split <;> simp
  | presenceQuery =>
    refine .work exec_row_presenceQuery fun s => ?_
    split <;> simp
  | serviceLimitReplacement =>
    refine .operation exec_row_serviceLimitReplacement fun s op ph => ?_
    split <;> simp
  | acknowledge => exact .live State.readVector_time
  | done b => exact .live (·.writeDone_time b)
  | actionRequest => exact .live State.takeNextAction_time
  | lineConfiguration =>
    refine .operation exec_row_lineConfiguration fun s op ph => ?_
    split <;> simp
  | levelChange n level => exact fun s => KeepsTime.live (·.takeChange_time n level) (s.setPin n level)
  | enable b | clearAll b | clearCollision b | popCapture b | popMiss b => exact .live (·.control_time b)
  | classMask b => exact .live (·.writeMask_time b)
  | alertClear b => exact .live (·.alertClear_time b)
  | viewData => exact .live State.readView_time
  | registerWrite a b => exact .live (busWrite_time · (not_le.1 (of_decide_eq_false h)) b)
  | resetNegation => exact KeepsTime.onlyIf (p := (·.win.resetAsserted = true)) State.negateReset_time fun _ => rfl
  | runNextExpiry =>
    refine .work exec_row_runNextExpiry fun s => ?_
    split <;> simp
  | alertEnable | outputSet | outputClear | stagePointer | stageDataWrite | stageDataRead => exact .live fun _ => rfl

/-- Settles O9: every row but those named leaves the time base. -/
theorem othersLeaveTheTimeBase : Obligations.OthersLeaveTheTimeBase := by
  intro c s t hexec
  obtain rfl := Host.Outcome.next.inj ((exec_effect c s).symm.trans hexec)
  cases c with
  | tbclkEdge | tick | divisorLow | divisorHigh | runStart | runStop | capture | setTime | hardwareReset => trivial
  | registerWrite a b => exact fun ha => effect_keepsTime (c := .registerWrite a b) (decide_eq_false (not_le.2 ha)) s
  | _ => exact effect_keepsTime rfl s

/-! ## The phase (R4) -/

theorem effectiveDivisor_pos (d : Half) : 0 < effectiveDivisor d := by
  unfold effectiveDivisor
  split
  · decide
  · next h => exact Nat.pos_of_ne_zero fun h0 => h (BitVec.eq_of_toNat_eq h0)

/-- A phase of 0 is below every divisor. -/
theorem phaseLaw_of_zero {s : State} (h : s.time.phase = 0) : PhaseLaw s := by
  show s.time.phase.toNat < _
  rw [h]
  exact effectiveDivisor_pos _

/-- The law speaks of the phase and the active divisor. -/
theorem phaseLaw_congr {s t : State} (h : PhaseLaw s) (hphase : t.time.phase = s.time.phase)
    (hdivisor : t.time.activeDivisor = s.time.activeDivisor) : PhaseLaw t := by
  show t.time.phase.toNat < effectiveDivisor t.time.activeDivisor
  rw [hphase, hdivisor]
  exact h

/-- A change keeps the law of the phase. -/
def KeepsPhase (f : State → State) : Prop := ∀ s, PhaseLaw s → PhaseLaw (f s)

namespace KeepsPhase

theorem makeTick : KeepsPhase State.makeTick := fun _ _ => phaseLaw_of_zero rfl

/-- An edge that is counted and does not complete the interval leaves the phase below it. -/
theorem tbclk : KeepsPhase State.tbclk := fun s h => by
  cases hrun : s.time.run
  · rwa [tbclk_stopped hrun]
  · cases hlast : s.time.lastEdge
    · rw [tbclk_counted hrun hlast]
      have hmore : s.time.phase.toNat + 1 < effectiveDivisor s.time.activeDivisor := by
        simpa [TimeBase.lastEdge] using hlast
      have hle : (s.time.phase + 1).toNat ≤ s.time.phase.toNat + 1 := by
        rw [BitVec.toNat_add]
        exact Nat.mod_le _ _
      exact hle.trans_lt hmore
    · rw [tbclk_completes hrun hlast]
      exact makeTick s h

/-- A start sets the phase to 0, and nothing else of TIME CONTROL moves it. -/
theorem timeControl (run capture : Bool) : KeepsPhase fun s => s.timeControl run capture := fun s h => by
  have hwrite (t : TimeBase) (hphase : t.phase = s.time.phase) (hdivisor : t.activeDivisor = s.time.activeDivisor) :
      (t.writeRun run).phase.toNat < effectiveDivisor (t.writeRun run).activeDivisor := by
    unfold TimeBase.writeRun
    split
    · exact effectiveDivisor_pos _
    · dsimp only
      rw [hphase, hdivisor]
      exact h
  cases capture
  · exact hwrite s.time rfl rfl
  · exact hwrite s.time.snap rfl rfl

theorem doSetTime (op : HostOp) : KeepsPhase fun s => s.doSetTime op := fun _ _ => phaseLaw_of_zero rfl

/-- An address of 0DH to 0FH is TIME CONTROL or DIVISOR, and no other reaches the time base. -/
theorem busWrite (a : WinAddr) (b : Byte) : KeepsPhase fun s => s.busWrite a b := fun s h => by
  by_cases ha : a.toNat < 13
  · have htime := busWrite_time s ha b
    exact phaseLaw_congr h (congrArg _ htime) (congrArg _ htime)
  · have hrange : a.toNat = 13 ∨ a.toNat = 14 ∨ a.toNat = 15 := by
      have := a.isLt
      omega
    rcases hrange with ha | ha | ha
    · obtain rfl : a = 13 := BitVec.eq_of_toNat_eq ha
      exact timeControl _ _ s h
    · obtain rfl : a = 14 := BitVec.eq_of_toNat_eq ha
      exact phaseLaw_congr h rfl rfl
    · obtain rfl : a = 15 := BitVec.eq_of_toNat_eq ha
      exact phaseLaw_congr h rfl rfl

theorem live {f : State → State} (hf : KeepsPhase f) : KeepsPhase (whenLive f) := fun s h => by
  unfold whenLive
  split
  · exact h
  · exact hf s h

end KeepsPhase

theorem effect_keepsPhase (c : Instr) : KeepsPhase (effect c) := by
  have others (h : reachesTime c = false) : KeepsPhase (effect c) := fun s hs => by
    have htime := effect_keepsTime h s
    exact phaseLaw_congr hs (congrArg _ htime) (congrArg _ htime)
  cases c with
  | tbclkEdge => exact .live .tbclk
  | tick =>
    refine .live (f := fun s => if s.time.run && s.time.lastEdge then s.makeTick else s) fun s h => ?_
    dsimp only
    split
    · exact KeepsPhase.makeTick s h
    · exact h
  | divisorLow b | divisorHigh b => exact .live fun s h => phaseLaw_congr h rfl rfl
  | runStart => exact .live (.timeControl true false)
  | runStop => exact .live (.timeControl false false)
  | capture run => exact .live (.timeControl run true)
  | setTime =>
    rw [effect_of_work exec_row_setTime]
    refine .live fun s h => ?_
    have hsettled : PhaseLaw s.settle := phaseLaw_congr h (by rw [State.settle_time]) (by rw [State.settle_time])
    rcases onOperation_cases s.settle .setTime
      (fun op ph => if ph = .started then s.settle.doSetTime op else s.settle) with heq | ⟨op, ph, _, heq⟩
    · rwa [heq]
    · rw [heq]
      split
      · exact KeepsPhase.doSetTime op _ hsettled
      · exact hsettled
  | hardwareReset => exact fun s _ => phaseLaw_of_zero rfl
  | registerWrite a b => exact .live (.busWrite a b)
  | _ => exact others rfl

/-- Settles O7: a step leaves the effect of one command, and each command keeps the law. -/
theorem phaseStaysBelowDivisor : Obligations.PhaseStaysBelowDivisor := by
  intro s t h hstep
  rcases step_cases hstep with rfl | ⟨c, rest, rfl⟩
  · exact h
  · exact effect_keepsPhase c _ (phaseLaw_congr h rfl rfl)

end Sys2Proof.Machine.TimeBaseRows

namespace Sys2Proof.Machine.EntryOperations

open ListOperations EventPool Service RegisterWindow

/-! # Entry definitions

The statements about DEFINE, RELEASE, READ DEFINITION and READ STATE: their checks in order, and the layouts byte by
byte. -/

section
variable {s q : State} {op : HostOp} {ph : OpPhase} {e : EntryNo} {p : Presence}

theorem exec_define (hlive : s.Live) (hc : s.Carries .define op ph) : exec .define s = .next (s.doDefine op ph) :=
  liveWork_carries hlive hc State.doDefine

theorem exec_release (hlive : s.Live) (hc : s.Carries .release op ph) : exec .release s = .next (s.doRelease op ph) :=
  liveWork_carries hlive hc State.doRelease

theorem exec_readDefinition (hlive : s.Live) (hc : s.Carries .readDefinition op ph) :
    exec .readDefinition s = .next (s.doReadDefinition op) :=
  liveWork_carries hlive hc fun s op _ => s.doReadDefinition op

theorem exec_readState (hlive : s.Live) (hc : s.Carries .readState op ph) :
    exec .readState s = .next (s.doReadState op ph) := liveWork_carries hlive hc State.doReadState

/-! ## The checks of DEFINE (R25 to R27) -/

theorem doDefine_badEntry (h : op.NamesNone) : s.doDefine op ph = s.complete .badEntry := by
  simp only [State.doDefine, HostOp.entry?_none h]

theorem doDefine_armed (h : op.Names e) (harmed : (s.entry e).timing = .armed) :
    s.doDefine op ph = s.complete .entryArmed := by
  simp only [State.doDefine, HostOp.entry?_some h, if_pos harmed]

/-- An entry that the presence query finds events of keeps its definition. -/
theorem doDefine_hasEvents (h : op.Names e) (harmed : (s.entry e).timing ≠ .armed) (hq : s.Queried ph e q p)
    (hp : p.any = true) : s.doDefine op ph = q.complete .entryHasEvents := by
  simp only [State.doDefine, HostOp.entry?_some h, if_neg harmed, hq.after, hq.answer, hp, if_true]

/-- The last three checks come after the presence query. -/
theorem doDefine_checked (h : op.Names e) (harmed : (s.entry e).timing ≠ .armed) (hq : s.Queried ph e q p)
    (hp : p.any = false) :
    (q.checkDefine e op.image = .complete → s.doDefine op ph =
      (q.setEntry e (.defined (decodeDefinition op.image))).complete .complete) ∧
    (q.checkDefine e op.image ≠ .complete → s.doDefine op ph = q.complete (q.checkDefine e op.image)) := by
  simp only [State.doDefine, HostOp.entry?_some h, if_neg harmed, hq.after, hq.answer, hp, Bool.false_eq_true, if_false]
  refine ⟨fun hcheck => by simp only [hcheck], fun hcheck => ?_⟩
  split
  · next heq => exact absurd heq hcheck
  · rfl

end

/-- The link check refuses a follow-on that is FREE, unless it is the entry that is defined (R25). -/
def BadLink (s : State) (e : EntryNo) (d : Definition) : Prop :=
  ∃ f, d.followOn = some f ∧ f ≠ e ∧ (s.entry f).timing = .free

section
variable {s : State} {e : EntryNo} {i : Image}

theorem checkDefine_badField (h : formOk i = false) : s.checkDefine e i = .badField := by
  simp only [State.checkDefine, h, Bool.not_false, if_true]

theorem checkDefine_badDelay (h : formOk i = true) (hdelay : delaysOk (decodeDefinition i) = false) :
    s.checkDefine e i = .badDelay := by
  simp only [State.checkDefine, h, hdelay, Bool.not_true, Bool.not_false, Bool.false_eq_true, if_true, if_false]

/-- The link check is the last (R25). -/
theorem checkDefine_link (h : formOk i = true) (hdelay : delaysOk (decodeDefinition i) = true) :
    (BadLink s e (decodeDefinition i) → s.checkDefine e i = .linkToFree) ∧
    (¬ BadLink s e (decodeDefinition i) → s.checkDefine e i = .complete) := by
  simp only [State.checkDefine, h, hdelay, Bool.not_true, Bool.false_eq_true, if_false, BadLink]
  cases (decodeDefinition i).followOn with
  | none => simp
  | some f => simp only [Option.some.injEq, exists_eq_left', ite_eq_left_iff, ite_eq_right_iff]; tauto

/-- The three checks pass together (R25 to R27). -/
theorem checkDefine_eq_complete : s.checkDefine e i = .complete ↔
    formOk i = true ∧ delaysOk (decodeDefinition i) = true ∧ ¬ BadLink s e (decodeDefinition i) := by
  cases hform : formOk i with
  | false => simp [checkDefine_badField hform]
  | true =>
    cases hdelay : delaysOk (decodeDefinition i) with
    | false => simp [checkDefine_badDelay hform hdelay]
    | true =>
      obtain ⟨hbad, hgood⟩ := checkDefine_link (s := s) (e := e) hform hdelay
      by_cases hlink : BadLink s e (decodeDefinition i)
      · simp [hbad hlink, hlink]
      · simp [hgood hlink, hlink]

end

/-- A period of 0 is absent (R169). -/
theorem decode_period_ne_zero (i : Image) : (decodeDefinition i).period ≠ some 0 := by
  show periodOf _ ≠ some 0
  unfold periodOf
  split
  · simp
  · next h => simpa using h

/-- The range check refuses a delay of 0 or of 2³¹ or more, and a period of 2³¹ or more (R27). -/
theorem delaysOk_decode (i : Image) : delaysOk (decodeDefinition i) = false ↔
    ((decodeDefinition i).delay = 0 ∨ 2 ^ 31 ≤ (decodeDefinition i).delay.toNat ∨
      ∃ w, (decodeDefinition i).period = some w ∧ 2 ^ 31 ≤ w.toNat) := by
  have hperiod : ∀ w, (decodeDefinition i).period = some w → 1 ≤ w.toNat := fun w hw =>
    Nat.pos_of_ne_zero fun h0 => decode_period_ne_zero i (hw.trans (congrArg some (BitVec.eq_of_toNat_eq h0)))
  have hzero : (decodeDefinition i).delay = 0 ↔ (decodeDefinition i).delay.toNat = 0 := by
    rw [← BitVec.toNat_inj]
    rfl
  rw [Bool.eq_false_iff, ne_eq, delaysOk_iff, hzero]
  constructor
  · intro h
    by_contra hno
    simp only [not_or, not_exists, not_and, not_le] at hno
    obtain ⟨h0, hhigh, hper⟩ := hno
    exact h ⟨⟨Nat.pos_of_ne_zero h0, hhigh⟩, fun w hw => ⟨hperiod w hw, hper w hw⟩⟩
  · rintro (h | h | ⟨w, hw, h⟩) ⟨⟨hlow, hhigh⟩, hper⟩
    · omega
    · omega
    · have := (hper w hw).2
      omega

/-! ## The DEFINE layout, byte by byte (R169) -/

/-- Byte 0 as the sum of its fields. -/
theorem toNat_byte0 (d : Definition) : d.byte0.toNat =
    d.cls.val + (if d.delivery = .post then 8 else 0) + (if d.policy = .restart then 16 else 0) := by
  unfold Definition.byte0
  generalize d.cls = c
  cases d.delivery <;> cases d.policy <;> revert c <;> decide

/-- Byte 1 as the sum of its fields. -/
theorem toNat_byte1 (d : Definition) : d.byte1.toNat = match d.output with
    | none => 0
    | some o => (match o.act with | .set => 1 | .clear => 2 | .toggle => 3 | .pulse => 4) + 16 * o.line.val := by
  unfold Definition.byte1
  cases d.output with
  | none => rfl
  | some o =>
    obtain ⟨act, line⟩ := o
    cases act <;> revert line <;> decide

/-- The entry byte, with FFH for "absent". -/
theorem toNat_entryByte (f : Option EntryNo) : (entryByte f).toNat = match f with | none => 255 | some x => x.val := by
  cases f with
  | none => rfl
  | some x => exact toNat_byteOfNat_fin x (by decide)

/-- The image that READ DEFINITION writes holds the definition (R31, R169). -/
theorem inLayout_encode (d : Definition) : d.InLayout (encodeDefinition d) where
  byte0 := toNat_byte0 d
  byte1 := toNat_byte1 d
  delay := le4_bytes d.delay
  period := le4_bytes (d.period.getD 0)
  repeatLimit := le2_bytes d.repeatLimit
  followOn := toNat_entryByte d.followOn
  staleLimit := le2_bytes d.staleLimit
  byte15 := rfl

/-- The output that the action code and the line field of byte 1 spell. -/
theorem toNat_outputOf {b : Byte} (h3 : b.getLsbD 3 = false) (h7 : b.getLsbD 7 = false)
    (haction : (b.extractLsb' 0 3).toNat ≤ 4) (hline : (b.extractLsb' 0 3).toNat ≠ 0 ∨ b.extractLsb' 4 3 = 0) :
    b.toNat = match outputOf b with
      | none => 0
      | some o => (match o.act with | .set => 1 | .clear => 2 | .toggle => 3 | .pulse => 4) + 16 * o.line.val := by
  have hsum := (toNat_fields b).2
  simp only [h3, h7, Bool.toNat_false, Nat.mul_zero, Nat.add_zero] at hsum
  have hfield : b.extractLsb' 4 3 = 0 → (field3 b 4).val = 0 := fun h => by rw [field3, h]; rfl
  rw [hsum]
  unfold outputOf
  generalize (b.extractLsb' 0 3).toNat = code at *
  interval_cases code
  · simpa [actionOf] using hfield (hline.resolve_left (by decide))
  all_goals rfl

/-- An image of good form holds the definition that it spells (R169). -/
theorem inLayout_decode {i : Image} (h : GoodForm i) : (decodeDefinition i).InLayout i where
  byte0 := by
    have hsum := (toNat_fields i[0]).1
    rw [h.zeros0] at hsum
    refine hsum.trans ?_
    show _ = (field3 i[0] 0).val + (if (if i[0].getLsbD 3 then Delivery.post else .silent) = .post then 8 else 0) +
      (if (if i[0].getLsbD 4 then Policy.restart else .keep) = .restart then 16 else 0)
    cases i[0].getLsbD 3 <;> cases i[0].getLsbD 4 <;> rfl
  byte1 := toNat_outputOf h.zero3 h.zero7 h.action h.line
  delay := rfl
  period := by
    show le4 i[6] i[7] i[8] i[9] = (periodOf (le4 i[6] i[7] i[8] i[9])).getD 0
    unfold periodOf
    split
    · next hzero => exact hzero
    · rfl
  repeatLimit := rfl
  followOn := by
    show i[12].toNat = match entryOf i[12] with | none => 255 | some f => f.val
    cases hf : entryOf i[12] with
    | none => rw [h.followOn.resolve_left (by simp [hf])]; rfl
    | some f => exact (entryOf_eq_some_iff _ f).1 hf
  staleLimit := rfl
  byte15 := h.zero15

/-! ## The six cases of R26 -/

theorem toNat_eq_zero_iff {n : Nat} (b : BitVec n) : b = 0 ↔ b.toNat = 0 := by
  rw [← BitVec.toNat_inj]
  simp

/-- A byte that is neither FFH nor an entry number. -/
theorem entryOf_isSome_iff (b : Byte) : (entryOf b).isSome = true ↔ b.toNat < 64 := by
  unfold entryOf
  split <;> simp_all

/-- The checks of form, each in the terms of R26. -/
theorem goodForm_iff (i : Image) : GoodForm i ↔
    (i[0].toNat / 32 = 0 ∧ i[1].getLsbD 3 = false ∧ i[1].getLsbD 7 = false ∧ i[15] = 0) ∧
    i[1].toNat % 8 ≤ 4 ∧
    (i[1].toNat % 8 ≠ 0 ∨ i[1].toNat / 16 % 8 = 0) ∧
    (i[12].toNat < 64 ∨ i[12].toNat = 255) ∧
    (i[1].toNat % 8 ≠ 4 ∨ i[0].getLsbD 3 = true) ∧
    (¬ (i[6] = 0 ∧ i[7] = 0 ∧ i[8] = 0 ∧ i[9] = 0) ∨ (i[10] = 0 ∧ i[11] = 0)) := by
  have hzeros : i[0].extractLsb' 5 3 = 0 ↔ i[0].toNat / 32 = 0 := by
    have := i[0].isLt
    rw [toNat_eq_zero_iff, BitVec.extractLsb'_toNat, Nat.shiftRight_eq_div_pow]
    omega
  have hcode : (i[1].extractLsb' 0 3).toNat = i[1].toNat % 8 := by
    simp
  have hline : i[1].extractLsb' 4 3 = 0 ↔ i[1].toNat / 16 % 8 = 0 := by
    rw [toNat_eq_zero_iff, BitVec.extractLsb'_toNat, Nat.shiftRight_eq_div_pow]
  have hfollow : i[12] = 0xFF ↔ i[12].toNat = 255 := by
    rw [← BitVec.toNat_inj]
    rfl
  have hperiod : le4 i[6] i[7] i[8] i[9] = 0 ↔ i[6] = 0 ∧ i[7] = 0 ∧ i[8] = 0 ∧ i[9] = 0 := by
    simp only [toNat_eq_zero_iff, toNat_le4]
    omega
  have hlimit : le2 i[10] i[11] = 0 ↔ i[10] = 0 ∧ i[11] = 0 := by
    simp only [toNat_eq_zero_iff, toNat_le2]
    omega
  rw [← hzeros, ← hcode, ← hline, ← hfollow, ← hperiod, ← hlimit, ← entryOf_isSome_iff]
  constructor
  · rintro ⟨h0, h3, h7, h15, hact, hl, hf, hp, hr⟩
    exact ⟨⟨h0, h3, h7, h15⟩, hact, hl, hf, hp, hr⟩
  · rintro ⟨⟨h0, h3, h7, h15⟩, hact, hl, hf, hp, hr⟩
    exact ⟨h0, h3, h7, h15, hact, hl, hf, hp, hr⟩

/-- The six cases of R26. -/
def SixCases (i : Image) : Prop :=
  (i[0].toNat / 32 ≠ 0 ∨ i[1].getLsbD 3 = true ∨ i[1].getLsbD 7 = true ∨ i[15] ≠ 0) ∨
  4 < i[1].toNat % 8 ∨
  (i[1].toNat % 8 = 0 ∧ i[1].toNat / 16 % 8 ≠ 0) ∨
  (64 ≤ i[12].toNat ∧ i[12].toNat ≠ 255) ∨
  (i[1].toNat % 8 = 4 ∧ i[0].getLsbD 3 = false) ∨
  (i[6] = 0 ∧ i[7] = 0 ∧ i[8] = 0 ∧ i[9] = 0 ∧ (i[10] ≠ 0 ∨ i[11] ≠ 0))

theorem formOk_eq_false_iff (i : Image) : formOk i = false ↔ SixCases i := by
  rw [Bool.eq_false_iff, ne_eq, formOk_iff, goodForm_iff, SixCases]
  simp only [not_and_or, not_or, not_not, not_le, not_lt, Bool.not_eq_false, Bool.not_eq_true, ne_eq, and_assoc, or_assoc]

/-- With no post request under way and nothing of a tick left, the dispatch unit takes nothing. -/
theorem takeAllPosts_idle {s : State} (hposts : s.link.posts = []) (hstale : s.du.staleOwed = false)
    (hoverrun : s.du.overrunOwed = false) : s.takeAllPosts = s := by
  simp only [State.takeAllPosts, State.finishTick_none hstale hoverrun, hposts, List.foldl_nil]
  rw [← hposts]

/-- An entry of which no record stands in the dispatch unit has no events (R23). -/
theorem presence_none {s : State} {e : EntryNo} (hwaiting : ∀ r ∈ s.du.pool ++ s.du.held, r.entry ≠ e)
    (hservice : ∀ r ∈ s.du.stack, r.entry ≠ e) : (s.presence e).any = false := by
  refine Bool.eq_false_iff.2 (mt (hasRecord_iff s e).1 ?_)
  rintro (⟨r, hr, he⟩ | ⟨r, hr, he⟩)
  · exact hwaiting r hr he
  · exact hservice r hr he

/-- Settles O10: each check of form in the terms of R26, and the refusal of DEFINE by the fourth check. -/
theorem formCheckIsTheSixCases : Obligations.FormCheckIsTheSixCases := by
  refine ⟨formOk_eq_false_iff,
    fun s op e hlive hc hname harmed hwaiting hservice hposts hstale hoverrun hsix => ?_⟩
  have hform := (formOk_eq_false_iff op.image).2 hsix
  have hcheck := checkDefine_badField (s := s) (e := e) hform
  have hq : s.Queried .started e s (s.presence e) :=
    .inr ⟨rfl, (takeAllPosts_idle hposts hstale hoverrun).symm, rfl⟩
  rw [exec_define hlive hc,
    (doDefine_checked hname harmed hq (presence_none hwaiting hservice)).2 (by rw [hcheck]; decide), hcheck]

/-- Settles O12: each check by its result, in the state after the presence query. -/
theorem defineMakesItsChecksInOrder : Obligations.DefineMakesItsChecksInOrder := by
  intro s op ph hlive hc
  rw [exec_define hlive hc]
  refine ⟨fun hnone => by rw [doDefine_badEntry hnone], fun e hname harmed => by rw [doDefine_armed hname harmed],
    fun e q p hname harmed hq => ?_⟩
  have hlink : BadLink q e (decodeDefinition op.image) ↔
      ∃ f, (decodeDefinition op.image).followOn = some f ∧ f ≠ e ∧ (s.entry f).timing = .free := by
    simp only [BadLink, hq.entry]
  have hrange := delaysOk_decode op.image
  have hpass (h : ¬ _) := (Bool.not_eq_false _).mp (mt hrange.1 h)
  refine ⟨hrange, fun hform => ⟨inLayout_decode ((formOk_iff _).1 hform), decode_period_ne_zero _⟩,
    fun hp => by rw [doDefine_hasEvents hname harmed hq hp], fun hp hform => ?_, fun hp hform hdelay => ?_,
    fun hp hform hdelay hbad => ?_, fun hp hform hdelay hgood => ?_⟩
  · have hcheck := checkDefine_badField (s := q) (e := e) hform
    rw [(doDefine_checked hname harmed hq hp).2 (by rw [hcheck]; decide), hcheck]
  · have hcheck := checkDefine_badDelay (s := q) (e := e) hform (hrange.2 hdelay)
    rw [(doDefine_checked hname harmed hq hp).2 (by rw [hcheck]; decide), hcheck]
  · have hcheck := (checkDefine_link hform (hpass hdelay)).1 (hlink.2 hbad)
    rw [(doDefine_checked hname harmed hq hp).2 (by rw [hcheck]; decide), hcheck]
  · rw [(doDefine_checked hname harmed hq hp).1
      ((checkDefine_link hform (hpass hdelay)).2 (mt hlink.1 hgood))]
    rfl

/-! ## RELEASE (R29, R30) -/

/-- The two kinds of reference (R30). -/
theorem referenced_iff (s : State) (e : EntryNo) : s.referenced e = true ↔
    (∃ f, f ≠ e ∧ (s.entry f).timing ≠ .free ∧ (s.entry f).defn.followOn = some e) ∨
      ∃ n : InLine, (s.line.ins[n]).cfg.trigger = some e := by
  have hentries : ∀ f : EntryNo, f ∈ allEntries := fun f => List.mem_ofFn.2 ⟨f, rfl⟩
  have hlines : ∀ n : InLine, n ∈ allInLines := by decide
  simp [State.referenced, State.trigger, hentries, hlines, and_assoc]

section
variable {s q : State} {op : HostOp} {ph : OpPhase} {e : EntryNo} {p : Presence}

theorem doRelease_badEntry (h : op.NamesNone) : s.doRelease op ph = s.complete .badEntry := by
  simp only [State.doRelease, HostOp.entry?_none h]

theorem doRelease_free (h : op.Names e) (hfree : (s.entry e).timing = .free) :
    s.doRelease op ph = s.complete .entryFree := by
  simp only [State.doRelease, HostOp.entry?_some h, hfree]

theorem doRelease_armed (h : op.Names e) (harmed : (s.entry e).timing = .armed) :
    s.doRelease op ph = s.complete .entryArmed := by
  simp only [State.doRelease, HostOp.entry?_some h, harmed]

/-- An IDLE entry is released unless it has events or is referenced. -/
theorem doRelease_idle (h : op.Names e) (hidle : (s.entry e).timing = .idle) (hq : s.Queried ph e q p) :
    s.doRelease op ph = if p.any then q.complete .entryHasEvents
      else if q.referenced e then q.complete .referenced else (q.setEntry e .free).complete .complete := by
  simp only [State.doRelease, HostOp.entry?_some h, hidle, hq.after, hq.answer]

end

/-- Settles O13: each check by its result, in the state after the presence query. -/
theorem releaseMakesItsChecksInOrder : Obligations.ReleaseMakesItsChecksInOrder := by
  intro s op ph hlive hc
  rw [exec_release hlive hc]
  refine ⟨fun hnone => by rw [doRelease_badEntry hnone], fun e hname hfree => by rw [doRelease_free hname hfree],
    fun e hname harmed => by rw [doRelease_armed hname harmed], fun e q p hname hidle hq => ?_⟩
  have href := referenced_iff q e
  simp only [hq.entry] at href
  rw [doRelease_idle hname hidle hq]
  refine ⟨fun hp => by rw [if_pos hp], fun hp hreferenced => ?_, fun hp hfree => ?_⟩
  · rw [if_neg (by simp [hp]), if_pos (href.2 hreferenced)]
  · rw [if_neg (by simp [hp]), if_neg (mt href.1 hfree)]

/-! ## READ DEFINITION and READ STATE (R31 to R33, R170) -/

/-- Settles O14: each check by its result, and the image of the definition. -/
theorem readDefinitionWritesTheImage : Obligations.ReadDefinitionWritesTheImage := by
  intro s op ph hlive hc
  rw [exec_readDefinition hlive hc]
  refine ⟨fun hnone => ?_, fun e hname hfree => ?_, fun e hname hdef => ?_⟩
  · simp only [State.doReadDefinition, HostOp.entry?_none hnone]
  · simp only [State.doReadDefinition, HostOp.entry?_some hname, if_pos hfree]
  · refine ⟨encodeDefinition (s.entry e).defn, inLayout_encode _, ?_⟩
    simp only [State.doReadDefinition, HostOp.entry?_some hname, if_neg hdef, State.completeRead]

/-- The presence byte as the sum of its flags (R170). -/
theorem toNat_presenceByte (p : Presence) :
    p.byte.toNat = p.pending.toNat + 2 * p.held.toNat + 4 * p.inService.toNat := by
  obtain ⟨pending, held, service⟩ := p
  cases pending <;> cases held <;> cases service <;> rfl

/-- Settles O15: the check, and the layout of the state as it stands after the presence query. -/
theorem readStateWritesTheLayout : Obligations.ReadStateWritesTheLayout := by
  intro s op ph hlive hc
  rw [exec_readState hlive hc]
  refine ⟨fun hnone => ?_, fun e q p hname hq => ⟨encodeState (s.entry e) p, ?_, ?_, toNat_presenceByte p,
    le4_bytes _, le2_bytes _, le2_bytes _, rfl, rfl, rfl, rfl, rfl, rfl⟩⟩
  · simp only [State.doReadState, HostOp.entry?_none hnone]
  · simp only [State.doReadState, HostOp.entry?_some hname, hq.after, hq.answer, hq.entry, State.completeRead]
  · show (s.entry e).timing.code = _
    cases (s.entry e).timing <;> rfl

end Sys2Proof.Machine.EntryOperations

namespace Sys2Proof.Machine.HardwareReset

open ListOperations EventPool StepAndReset

/-! # Hardware reset

The values that an assertion of RESET* gives every block, and the negation after it. -/

/-- An input line under RESET*: the pin is the outside's, and the last level waits for the negation (R134, R145). -/
theorem hardwareReset_in (s : State) (n : InLine) : s.hardwareReset.line.ins[n] = { s.line.ins[n] with
    cfg := .reset
    counter := 0 } := getElem_mapAll _ _ n n.isLt

/-- The output lines of a hardware reset are those of the reset state (R131). -/
theorem hardwareReset_out (s : State) (l : OutLine) : s.hardwareReset.line.outs[l] = .reset := reset_out l

theorem hardwareReset_entry (s : State) (e : EntryNo) : s.hardwareReset.entry e = .free := reset_entry e

theorem hardwareReset_latch (s : State) (n : InLine) : s.hardwareReset.lc.latches[n] = none := reset_latch n

theorem hardwareReset_limit (s : State) (c : ClassNo) : s.hardwareReset.du.limits[c] = 0 := by
  simp only [State.hardwareReset, State.reset, DispatchUnit.reset, Fin.getElem_fin, Vector.getElem_replicate]

theorem hardwareReset_staging (s : State) (i : Fin 16) : s.hardwareReset.win.staging[i] = 0 := by
  simp only [State.hardwareReset, Window.reset, Fin.getElem_fin, Vector.getElem_replicate]

/-- Nothing of a tick is left, no class is eligible and no cause is set, so that neither line is asserted (R96, R156). -/
theorem hardwareReset_lines (s : State) :
    s.hardwareReset.intAsserted = false ∧ s.hardwareReset.alertAsserted = false := by
  have hcauses : ((0 : Byte) &&& 0 != 0) = false := by decide
  rw [State.intAsserted, State.alertAsserted, State.finishTick_none rfl rfl]
  exact ⟨rfl, hcauses⟩

theorem exec_resetNegation (s : State) :
    exec .resetNegation s = .next (if s.win.resetAsserted then s.negateReset else s) := rfl

/-- With every pin low, a hardware reset and its negation leave the reset state but for the queue. -/
theorem negateReset_hardwareReset {s : State} (h : ∀ n : InLine, (s.line.ins[n]).pin = false) :
    { s.hardwareReset.negateReset with pending := [] } = State.reset := by
  have hins : s.hardwareReset.negateReset.line.ins = LineUnit.reset.ins := by
    ext n hn : 1
    have hreset := hardwareReset_in s ⟨n, hn⟩
    have hpin := h ⟨n, hn⟩
    simp only [Fin.getElem_fin] at hreset hpin
    simp only [State.negateReset, getElem_mapAll, hreset, hpin, LineUnit.reset, Vector.getElem_replicate]
    rfl
  simp only [State.negateReset] at hins ⊢
  rw [hins]
  rfl

/-- Settles O55: block by block, and the negation by the pins. -/
theorem hardwareResetValues : Obligations.HardwareResetValues := by
  refine ⟨fun s => ⟨s.hardwareReset, rfl, rfl, fun e => ?_, rfl, hardwareReset_latch s, rfl, rfl, rfl, rfl, rfl, rfl, rfl,
    rfl, rfl, rfl, hardwareReset_limit s, rfl, rfl, hardwareReset_out s, hardwareReset_in s, rfl, rfl,
    hardwareReset_staging s, rfl, rfl, rfl, rfl, rfl, rfl, rfl, hardwareReset_lines s⟩, fun s hreset => ?_,
    fun s hlive => ?_, fun s => negateReset_hardwareReset⟩
  · rw [hardwareReset_entry]
    exact ⟨rfl, rfl, rfl, rfl, rfl⟩
  · exact ⟨s.negateReset, by rw [exec_resetNegation, if_pos hreset], fun n => getElem_mapAll _ _ n n.isLt, rfl⟩
  · rw [exec_resetNegation, if_neg (by simpa [State.Live] using hlive)]

end Sys2Proof.Machine.HardwareReset

namespace Sys2Proof.Machine.Moves

open ListOperations EventPool Service Arms EntryOperations

/-! # What a command can do to the machine

Every command but a tick and a hardware reset is a sequence of moves (`Move`), each of which is one event of one block. The
laws of the list controller and the order of the due list are kept by each move, and so by every command. -/

/-! ## What the records of the dispatch unit are known by -/

/-- What a record, or the post request that makes it, takes over from the definition of its entry (R79). -/
@[ext] structure Tag where
  entry : EntryNo
  cls : ClassNo
  line : Option OutLine

def recordTag (r : Record) : Tag := { entry := r.entry, cls := r.cls, line := r.pulseLine }

def serviceTag (r : ServiceRecord) : Tag := { entry := r.entry, cls := r.cls, line := r.pulseLine }

def postTag (p : PostReq) : Tag := { entry := p.entry, cls := p.cls, line := p.pulseLine }

/-- The records that wait: events and held records. -/
def waiting (s : State) : List Tag := (s.du.pool ++ s.du.held).map recordTag

/-- The records in service. -/
def serving (s : State) : List Tag := s.du.stack.map serviceTag

/-- The post requests under way. -/
def posted (s : State) : List Tag := s.link.posts.map postTag

/-- The PULSE requests under way. -/
def pulses (s : State) : List (OutLine × EntryNo) := s.link.actions.filterMap ActionReq.pulse?

/-- The holder set of an output line. -/
def holders (s : State) (l : OutLine) : List EntryNo := (s.line.outs[l]).holders

/-! ## Moves of the dispatch unit and of the links -/

/-- A record with this tag leaves the dispatch unit, if it stands there, and its entry stops holding its line unless another
record of the entry remains (R84, R85). -/
structure Leaves (s t : State) (k : Tag) : Prop where
  posts : t.link.posts = s.link.posts
  pulses : pulses t = pulses s
  staying : ∀ x ∈ waiting s ++ serving s, x = k ∨ x ∈ waiting t ++ serving t
  waiting : (waiting t).Sublist (waiting s)
  serving : (serving t).Sublist (serving s)
  holders : ∀ l, (holders t l).Sublist (holders s l)
  released : ∀ l, k.line = some l → k.entry ∈ Moves.holders t l →
    ∃ x ∈ Moves.waiting t ++ Moves.serving t, x.entry = k.entry

/-- A waiting record with this tag goes into service, above records of greater classes only (R95, R103). -/
structure Serves (s t : State) (k : Tag) : Prop where
  posts : t.link.posts = s.link.posts
  pulses : pulses t = pulses s
  waited : k ∈ waiting s
  staying : ∀ x ∈ waiting s, x = k ∨ x ∈ waiting t
  waiting : (waiting t).Sublist (waiting s)
  serving : serving t = k :: serving s
  top : ∀ x xs, Moves.serving s = x :: xs → k.cls < x.cls
  holders : ∀ l, holders t l = holders s l

/-- The post and action requests under way replaced. -/
def withRequests (s : State) (ps : List PostReq) (as : List ActionReq) : State :=
  { s with link := { s.link with posts := ps, actions := as } }

/-- The line unit takes a PULSE at the head of the queue, with the post requests up to its own (R124). -/
def pulseTaken (s : State) (l : OutLine) (e : EntryNo) (as : List ActionReq) : State :=
  ((splitPost s.link.posts).1.foldl State.postCase (withRequests s (splitPost s.link.posts).2 as)).perform (.pulse l e)

/-- The moves by which records come, go into service and leave. -/
inductive Dispatch (s : State) : State → Prop
  | leaves {t : State} {k : Tag} (h : Leaves s t k) : Dispatch s t
  | serves {t : State} {k : Tag} (h : Serves s t k) : Dispatch s t
  | post {p : PostReq} {ps : List PostReq} (h : s.link.posts = p :: ps) : Dispatch s ((withPosts s ps).takePost p)
  | pulse {l : OutLine} {e : EntryNo} {as : List ActionReq} (h : s.link.actions = .pulse l e :: as) :
      Dispatch s (pulseTaken s l e as)

/-! ## Moves of the list controller -/

/-- Nothing that the laws of the list controller read changes. -/
structure Untouched (s t : State) : Prop where
  lc : t.lc = s.lc
  count : t.time.count = s.time.count
  trigger : ∀ n, t.trigger n = s.trigger n
  asserted : t.win.resetAsserted = s.win.resetAsserted

/-- The entries, the due list, the triggers and the records stand; the work in hand may change, within its law, and a
presence answer that it takes up is the one of this moment (R23). -/
structure Steady (s t : State) : Prop where
  entries : t.lc.entries = s.lc.entries
  dueList : t.lc.dueList = s.lc.dueList
  trigger : ∀ n, t.trigger n = s.trigger n
  posts : t.link.posts = s.link.posts
  pulses : pulses t = pulses s
  waiting : waiting t = waiting s
  serving : serving t = serving s
  holders : ∀ l, (holders t l).Sublist (holders s l)
  asserted : t.win.resetAsserted = true → s.win.resetAsserted = true
  controller : ControllerLaw s → ControllerLaw t
  answer : ∀ p, t.lc.work = .operation (.presence p) →
    (s.lc.work = .operation (.presence p) ∧ s.lc.slot = t.lc.slot) ∨
    (t.link.posts = [] ∧ ∀ op e, t.lc.slot = some op → op.entry? = some e → p = t.presence e)

/-- No record of the entry stands in the dispatch unit or is under way, or the presence answer at hand says so (R28). -/
def Untraced (s : State) (e : EntryNo) : Prop :=
  (s.link.posts = [] ∧ s.hasRecord e = false) ∨
  ∃ p op, s.lc.work = .operation (.presence p) ∧ s.lc.slot = some op ∧ op.entry? = some e ∧ p.any = false

/-- What DEFINE and RELEASE may write in the place of an entry record (R25 to R30). -/
structure Rewrite (s : State) (e : EntryNo) (en : Entry) : Prop where
  not_armed : (s.entry e).timing ≠ .armed
  untraced : Untraced s e
  written : (∃ d : Definition, en = .defined d ∧ d.legal = true ∧
      ∀ f, d.followOn = some f → f = e ∨ (s.entry f).timing ≠ .free) ∨
    (en = .free ∧ s.referenced e = false)

/-- A remaining within the limits of the entry's run, or below the one it had in the list (R22, R52). -/
def RemainingFits (s : State) (e : EntryNo) (rem : Half) : Prop :=
  (s.entry e).defn.period.isSome → (s.entry e).defn.repeatLimit ≠ 0 →
    1 ≤ rem.toNat ∧ (rem.toNat ≤ (s.entry e).defn.repeatLimit.toNat ∨
      ((s.entry e).timing = .armed ∧ rem.toNat ≤ (s.entry e).remaining.toNat))

/-- What a clear-all and a hardware reset leave of the machine (R34, R38, R98, R131, R132, R146). -/
structure Blank (t : State) : Prop where
  entry : ∀ e, t.entry e = .free
  dueList : t.lc.dueList = []
  work : t.lc.work = .rest
  owed : t.lc.owed = false
  latches : ∀ n : InLine, t.lc.latches[n] = none
  slot : t.lc.slot = none
  trigger : ∀ n, t.trigger n = none
  posts : t.link.posts = []
  actions : t.link.actions = []
  pool : t.du.pool = []
  held : t.du.held = []
  stack : t.du.stack = []
  holders : ∀ l, holders t l = []

/-- One event of one block. -/
inductive Move (s : State) : State → Prop
  | steady {t : State} (h : Steady s t) (origin : t.dueOrigin = s.dueOrigin) : Move s t
  | dispatch {t : State} (hu : Untouched s t) (h : Dispatch s t) : Move s t
  | rewrite {e : EntryNo} {en : Entry} (h : Rewrite s e en) : Move s (s.setEntry e en)
  | arm {e : EntryNo} {due : Word} {occ rem : Half} (hdef : (s.entry e).timing ≠ .free) (hadj : s.adjusting = false)
      (hrem : RemainingFits s e rem) : Move s (armWith s e due occ rem)
  | stop {e : EntryNo} {occ : Half} (harmed : (s.entry e).timing = .armed) : Move s (stopped s e occ)
  | issue {e : EntryNo} (hdef : (s.entry e).timing ≠ .free) (hwork : ∀ ph, s.lc.work ≠ .operation ph) :
      Move s (issued s e)
  | configure {n : InLine} {cfg : LineConfig} (h : ∀ x, cfg.trigger = some x → (s.entry x).timing ≠ .free) :
      Move s (s.takeLineConfig n cfg)
  | walk {d : Word} (h : s.lc.work = .operation (.adjusting d)) : Move s ((s.shiftWalk d).complete .complete)
  | blank {t : State} (h : Blank t) (asserted : t.win.resetAsserted = true → s.win.resetAsserted = true) : Move s t

/-- Moves one after another. -/
abbrev Reach := Relation.ReflTransGen Move

/-! ## The entry table after a move -/

theorem entry_congr {s t : State} (h : t.lc.entries = s.lc.entries) (e : EntryNo) : t.entry e = s.entry e := by
  simp only [State.entry, h]

/-- The definitions, and which entries are FREE, stand. -/
structure SameDefinitions (s t : State) : Prop where
  free : ∀ f, (t.entry f).timing = .free ↔ (s.entry f).timing = .free
  defn : ∀ f, (t.entry f).defn = (s.entry f).defn

theorem SameDefinitions.of_entries {s t : State} (h : t.lc.entries = s.lc.entries) : SameDefinitions s t :=
  ⟨fun f => by rw [entry_congr h], fun f => by rw [entry_congr h]⟩

/-- One record is written anew with its definition, and stays or becomes other than FREE. -/
theorem SameDefinitions.of_record {s t : State} {e : EntryNo} {en : Entry}
    (h : ∀ f, t.entry f = if f = e then en else s.entry f) (hdefn : en.defn = (s.entry e).defn)
    (hold : (s.entry e).timing ≠ .free) (hnew : en.timing ≠ .free) : SameDefinitions s t := by
  constructor <;> intro f <;> rw [h] <;> split
  · next heq => exact heq ▸ iff_of_false hnew hold
  · exact .rfl
  · next heq => exact heq ▸ hdefn
  · rfl

/-- The table after the walk of SET TIME (R73). -/
theorem entry_walk {s : State} (hl : s.lc.dueList.Nodup) (d : Word) (e : EntryNo) :
    ((s.shiftWalk d).complete .complete).entry e =
      if e ∈ s.lc.dueList then (s.entry e).shift d else s.entry e := by
  rw [shiftWalk_eq]
  exact getElem_walkTable (Entry.shift d) hl s.lc.entries e

theorem walk_dueList (s : State) (d : Word) : ((s.shiftWalk d).complete .complete).lc.dueList = s.lc.dueList := by
  rw [shiftWalk_eq]
  rfl

/-- The walk shifts due times alone. -/
theorem sameDefinitions_walk {s : State} (h : DueLaw s) (d : Word) :
    SameDefinitions s ((s.shiftWalk d).complete .complete) := by
  constructor <;> intro f <;> rw [entry_walk h.once] <;> split <;> rfl

/-- A record that DEFINE or RELEASE writes stands outside the due list. -/
theorem Rewrite.outside {s : State} {e : EntryNo} {en : Entry} (h : Rewrite s e en) :
    en.timing ≠ .armed ∧ en.due = none ∧ en.remaining = 0 ∧ (en.timing = .free → en = .free) := by
  rcases h.written with ⟨d, rfl, -⟩ | ⟨rfl, -⟩
  · exact ⟨nofun, rfl, rfl, nofun⟩
  · exact ⟨nofun, rfl, rfl, fun _ => rfl⟩

/-- A legal definition, or a FREE record, is written. -/
theorem sameDefinitions_arm {s : State} {e : EntryNo} {due : Word} {occ rem : Half}
    (hdef : (s.entry e).timing ≠ .free) : SameDefinitions s (armWith s e due occ rem) :=
  .of_record (fun f => entry_armWith s e f due occ rem) rfl hdef nofun

theorem sameDefinitions_stop {s : State} {e : EntryNo} {occ : Half} (harmed : (s.entry e).timing = .armed) :
    SameDefinitions s (stopped s e occ) :=
  .of_record (fun f => entry_stopped s e f occ) rfl (by simp [harmed]) nofun

/-! ## The due list and the timing states (R21, R22, R34, R35) -/

theorem dueLaw_congr {s t : State} (h : DueLaw s) (he : t.lc.entries = s.lc.entries)
    (hl : t.lc.dueList = s.lc.dueList) : DueLaw t where
  once := hl ▸ h.once
  exactly_armed e := by
    rw [hl, entry_congr he]
    exact h.exactly_armed e
  due_iff_armed e := by
    rw [entry_congr he]
    exact h.due_iff_armed e
  remaining_zero e := by
    rw [entry_congr he]
    exact h.remaining_zero e
  free_cleared e := by
    rw [entry_congr he]
    exact h.free_cleared e

/-- The law of one record, whose place in the list is known. -/
structure PlaceLaw (listed : Prop) (en : Entry) : Prop where
  exactly_armed : listed ↔ en.timing = .armed
  due_iff_armed : en.due.isSome ↔ en.timing = .armed
  remaining_zero : en.timing ≠ .armed → en.remaining = 0
  free_cleared : en.timing = .free → en = .free

theorem placeLaw_of_dueLaw {s : State} (h : DueLaw s) (e : EntryNo) : PlaceLaw (e ∈ s.lc.dueList) (s.entry e) :=
  ⟨h.exactly_armed e, h.due_iff_armed e, h.remaining_zero e, h.free_cleared e⟩

theorem dueLaw_of_places {s : State} (h : s.lc.dueList.Nodup) (hp : ∀ e, PlaceLaw (e ∈ s.lc.dueList) (s.entry e)) :
    DueLaw s :=
  ⟨h, fun e => (hp e).exactly_armed, fun e => (hp e).due_iff_armed, fun e => (hp e).remaining_zero,
    fun e => (hp e).free_cleared⟩

/-- One record is written, and no other entry comes into the list or leaves it. -/
theorem dueLaw_write {s t : State} {e : EntryNo} {en : Entry} (h : DueLaw s)
    (hentry : ∀ f, t.entry f = if f = e then en else s.entry f) (honce : t.lc.dueList.Nodup)
    (hothers : ∀ f, f ≠ e → (f ∈ t.lc.dueList ↔ f ∈ s.lc.dueList)) (hplace : PlaceLaw (e ∈ t.lc.dueList) en) :
    DueLaw t :=
  dueLaw_of_places honce fun f => by
    rw [hentry]
    by_cases hf : f = e
    · subst hf
      simpa using hplace
    · simpa [hf, hothers f hf] using placeLaw_of_dueLaw h f

/-- An entry that has left the list is not in it. -/
theorem not_mem_othersDue {s : State} (h : DueLaw s) (e : EntryNo) : e ∉ othersDue s e := by
  unfold othersDue
  split
  · exact fun hmem => (h.once.mem_erase_iff.1 hmem).1 rfl
  · next hno => exact mt (h.exactly_armed e).1 hno

theorem othersDue_sublist (s : State) (e : EntryNo) : (othersDue s e).Sublist s.lc.dueList := by
  unfold othersDue
  split
  · exact List.erase_sublist
  · exact .refl _

theorem mem_othersDue {s : State} (e : EntryNo) {f : EntryNo} (hf : f ≠ e) :
    f ∈ othersDue s e ↔ f ∈ s.lc.dueList := by
  unfold othersDue
  split
  · exact List.mem_erase_of_ne hf
  · exact .rfl

theorem dueLaw_arm {s : State} (h : DueLaw s) (e : EntryNo) (due : Word) (occ rem : Half) :
    DueLaw (armWith s e due occ rem) := by
  have hlist : (armWith s e due occ rem).lc.dueList = insertBy (distanceWith s e due) e (othersDue s e) := rfl
  refine dueLaw_write h (fun f => entry_armWith s e f due occ rem) ?_ (fun f hf => ?_) ?_
  · rw [hlist, nodup_insertBy]
    exact ⟨not_mem_othersDue h e, h.once.sublist (othersDue_sublist s e)⟩
  · rw [hlist, mem_insertBy, mem_othersDue e hf]
    exact or_iff_right hf
  · rw [hlist]
    exact ⟨by simp, by simp, nofun, nofun⟩

theorem dueLaw_stop {s : State} (h : DueLaw s) (e : EntryNo) (occ : Half) : DueLaw (stopped s e occ) := by
  have hlist : (stopped s e occ).lc.dueList = s.lc.dueList.erase e := rfl
  refine dueLaw_write h (fun f => entry_stopped s e f occ) (h.once.erase e) (fun f hf => ?_) ?_
  · rw [hlist]
    exact List.mem_erase_of_ne hf
  · rw [hlist]
    exact ⟨by simp [h.once.mem_erase_iff], by simp, fun _ => rfl, nofun⟩

theorem dueLaw_rewrite {s : State} (h : DueLaw s) {e : EntryNo} {en : Entry} (hw : Rewrite s e en) :
    DueLaw (s.setEntry e en) := by
  obtain ⟨harmed, hdue, hrem, hfree⟩ := hw.outside
  have hout : e ∉ s.lc.dueList := mt (h.exactly_armed e).1 hw.not_armed
  exact dueLaw_write h (fun f => s.entry_setEntry e f en) h.once (fun _ _ => .rfl)
    ⟨iff_of_false hout harmed, by simp [hdue, harmed], fun _ => hrem, hfree⟩

theorem dueLaw_walk {s : State} (h : DueLaw s) (d : Word) : DueLaw ((s.shiftWalk d).complete .complete) := by
  have hlist := walk_dueList s d
  refine dueLaw_of_places (hlist ▸ h.once) fun e => ?_
  rw [hlist, entry_walk h.once]
  have hplace := placeLaw_of_dueLaw h e
  split
  · next hmem =>
    have harmed := hplace.exactly_armed.1 hmem
    exact ⟨hplace.exactly_armed, by simpa [Entry.shift] using hplace.due_iff_armed, fun hno => absurd harmed hno,
      fun hfree => absurd (hfree.symm.trans harmed) nofun⟩
  · exact hplace

theorem Blank.dueLaw {t : State} (h : Blank t) : DueLaw t :=
  dueLaw_of_places (h.dueList ▸ .nil) fun e => by
    rw [h.entry, h.dueList]
    exact ⟨by simp [Entry.free], by simp [Entry.free], fun _ => rfl, fun _ => rfl⟩

theorem Move.dueLaw {s t : State} (hm : Move s t) (h : DueLaw s) : DueLaw t := by
  cases hm with
  | steady hs _ => exact dueLaw_congr h hs.entries hs.dueList
  | dispatch hu _ => exact dueLaw_congr h (congrArg _ hu.lc) (congrArg _ hu.lc)
  | rewrite hw => exact dueLaw_rewrite h hw
  | arm _ _ _ => exact dueLaw_arm h _ _ _ _
  | stop _ => exact dueLaw_stop h _ _
  | issue _ _ => exact dueLaw_congr h rfl rfl
  | configure _ => exact dueLaw_congr h rfl rfl
  | walk _ => exact dueLaw_walk h _
  | blank hb _ => exact hb.dueLaw

/-! ## The definitions and the references (R16 to R20, R24) -/

theorem definitionLaw_congr {s t : State} (h : DefinitionLaw s) (hd : SameDefinitions s t) : DefinitionLaw t :=
  fun e hdef => by
    rw [hd.defn]
    exact h e (mt (hd.free e).2 hdef)

theorem definitionLaw_rewrite {s : State} (h : DefinitionLaw s) {e : EntryNo} {en : Entry} (hw : Rewrite s e en) :
    DefinitionLaw (s.setEntry e en) := fun f hdef => by
  rw [s.entry_setEntry] at hdef ⊢
  split
  · next heq =>
    rw [if_pos heq] at hdef
    rcases hw.written with ⟨d, rfl, hlegal, -⟩ | ⟨rfl, -⟩
    · exact hlegal
    · exact absurd rfl hdef
  · next hne =>
    rw [if_neg hne] at hdef
    exact h f hdef

theorem Blank.definitionLaw {t : State} (h : Blank t) : DefinitionLaw t := fun e hdef =>
  absurd (by rw [h.entry]; rfl) hdef

theorem Move.definitionLaw {s t : State} (hm : Move s t) (hd : DueLaw s) (h : DefinitionLaw s) : DefinitionLaw t := by
  cases hm with
  | steady hs _ => exact definitionLaw_congr h (.of_entries hs.entries)
  | dispatch hu _ => exact definitionLaw_congr h (.of_entries (congrArg _ hu.lc))
  | rewrite hw => exact definitionLaw_rewrite h hw
  | arm hdef _ _ => exact definitionLaw_congr h (sameDefinitions_arm hdef)
  | stop harmed => exact definitionLaw_congr h (sameDefinitions_stop harmed)
  | issue _ _ => exact definitionLaw_congr h (.of_entries rfl)
  | configure _ => exact definitionLaw_congr h (.of_entries rfl)
  | walk _ => exact definitionLaw_congr h (sameDefinitions_walk hd _)
  | blank hb _ => exact hb.definitionLaw

theorem referenceLaw_congr {s t : State} (h : ReferenceLaw s) (hd : SameDefinitions s t)
    (htrigger : ∀ n, t.trigger n = s.trigger n) : ReferenceLaw t where
  follow_on e f hdef hf := by
    rw [hd.defn] at hf
    exact mt (hd.free f).1 (h.follow_on e f (mt (hd.free e).2 hdef) hf)
  trigger n x hx := mt (hd.free x).1 (h.trigger n x (htrigger n ▸ hx))

/-- DEFINE names no FREE entry but its own, and RELEASE frees an entry that no other names (R24). -/
theorem referenceLaw_rewrite {s : State} (h : ReferenceLaw s) {e : EntryNo} {en : Entry} (hw : Rewrite s e en) :
    ReferenceLaw (s.setEntry e en) := by
  have hentry := fun f => s.entry_setEntry e f en
  rcases hw.written with ⟨d, rfl, -, hlink⟩ | ⟨rfl, href⟩
  · have keep {f : EntryNo} (hf : f = e ∨ (s.entry f).timing ≠ .free) :
        ((s.setEntry e (.defined d)).entry f).timing ≠ .free := by
      rw [hentry]
      split
      · nofun
      · next hne => exact hf.resolve_left hne
    refine ⟨fun g f hdef hf => keep ?_, fun n x hx => keep (.inr (h.trigger n x hx))⟩
    rw [hentry] at hdef hf
    split at hf
    · exact hlink f hf
    · next hne =>
      rw [if_neg hne] at hdef
      exact .inr (h.follow_on g f hdef hf)
  · rw [Bool.eq_false_iff, ne_eq, referenced_iff, not_or] at href
    obtain ⟨hfollow, htrigger⟩ := href
    have keep {f : EntryNo} (hf : f ≠ e) (hdef : (s.entry f).timing ≠ .free) :
        ((s.setEntry e .free).entry f).timing ≠ .free := by
      rwa [hentry, if_neg hf]
    refine ⟨fun g f hdef hf => ?_, fun n x hx => keep ?_ (h.trigger n x hx)⟩
    · have hg : g ≠ e := by
        rintro rfl
        rw [hentry, if_pos rfl] at hdef
        exact hdef rfl
      rw [hentry, if_neg hg] at hdef hf
      refine keep ?_ (h.follow_on g f hdef hf)
      rintro rfl
      exact hfollow ⟨g, hg, hdef, hf⟩
    · rintro rfl
      exact htrigger ⟨n, hx⟩

/-- The trigger of the line that is configured, and those of the others (R143). -/
theorem trigger_takeLineConfig (s : State) (n m : InLine) (cfg : LineConfig) :
    (s.takeLineConfig n cfg).trigger m = if n = m then cfg.trigger else s.trigger m := by
  simp only [State.takeLineConfig, State.trigger, Fin.getElem_fin, Vector.getElem_set, Fin.ext_iff]
  split <;> rfl

theorem Blank.referenceLaw {t : State} (h : Blank t) : ReferenceLaw t :=
  ⟨fun e _ hdef => absurd (by rw [h.entry]; rfl) hdef, fun n x hx => by simp [h.trigger] at hx⟩

theorem Move.referenceLaw {s t : State} (hm : Move s t) (hd : DueLaw s) (h : ReferenceLaw s) : ReferenceLaw t := by
  cases hm with
  | steady hs _ => exact referenceLaw_congr h (.of_entries hs.entries) hs.trigger
  | dispatch hu _ => exact referenceLaw_congr h (.of_entries (congrArg _ hu.lc)) hu.trigger
  | rewrite hw => exact referenceLaw_rewrite h hw
  | arm hdef _ _ => exact referenceLaw_congr h (sameDefinitions_arm hdef) fun _ => rfl
  | stop harmed => exact referenceLaw_congr h (sameDefinitions_stop harmed) fun _ => rfl
  | issue _ _ => exact referenceLaw_congr h (.of_entries rfl) fun _ => rfl
  | configure hcfg =>
    refine ⟨h.follow_on, fun m x hx => ?_⟩
    rw [trigger_takeLineConfig] at hx
    split at hx
    · exact hcfg x hx
    · exact h.trigger m x hx
  | walk _ =>
    refine referenceLaw_congr h (sameDefinitions_walk hd _) fun n => ?_
    rw [shiftWalk_eq]
    rfl
  | blank hb _ => exact hb.referenceLaw

/-! ## The work in hand (R47, R56, R59, R60, R62) -/

theorem controllerLaw_congr {s t : State} (h : ControllerLaw s) (howed : t.lc.owed = s.lc.owed)
    (hlatches : t.lc.latches = s.lc.latches) (hslot : t.lc.slot = s.lc.slot) (hwork : t.lc.work = s.lc.work) :
    ControllerLaw t where
  rest_nothing_waits hw := by
    rw [howed, hlatches, hslot]
    exact h.rest_nothing_waits (hwork ▸ hw)
  run_is_owed hw := howed ▸ h.run_is_owed (hwork ▸ hw)
  latch_is_full n hw := by
    rw [hlatches]
    exact h.latch_is_full n (hwork ▸ hw)
  operation_in_slot ph hw := hslot ▸ h.operation_in_slot ph (hwork ▸ hw)
  phase_fits ph op hw hop := h.phase_fits ph op (hwork ▸ hw) (hslot ▸ hop)

/-- What the arbiter chooses meets the law. -/
theorem controllerLaw_of_choice {s : State} (h : s.lc.work = s.lc.choose) : ControllerLaw s := by
  rcases s.lc.choose_cases with ⟨ho, hw⟩ | ⟨-, n, hn, hw⟩ | ⟨-, -, hslot, hw⟩ | ⟨ho, hl, hslot, hw⟩ <;> rw [← h] at hw
  · exact ⟨fun h' => by simp [hw] at h', fun _ => ho, fun _ h' => by simp [hw] at h', fun _ h' => by simp [hw] at h',
      fun _ _ h' => by simp [hw] at h'⟩
  · refine ⟨fun h' => by simp [hw] at h', fun h' => by simp [hw] at h', fun m h' => ?_, fun _ h' => by simp [hw] at h',
      fun _ _ h' => by simp [hw] at h'⟩
    rw [hw] at h'
    obtain rfl := Work.latch.inj h'
    exact hn
  · refine ⟨fun h' => by simp [hw] at h', fun h' => by simp [hw] at h', fun _ h' => by simp [hw] at h', fun _ _ => hslot,
      fun ph _ h' _ => ?_⟩
    rw [hw] at h'
    obtain rfl := Work.operation.inj h'
    trivial
  · exact ⟨fun _ => ⟨ho, ListController.fullLatch_none hl, hslot⟩, fun h' => by simp [hw] at h',
      fun _ h' => by simp [hw] at h', fun _ h' => by simp [hw] at h', fun _ _ h' => by simp [hw] at h'⟩

theorem Blank.controllerLaw {t : State} (h : Blank t) : ControllerLaw t where
  rest_nothing_waits _ := ⟨h.owed, h.latches, h.slot⟩
  run_is_owed hw := nomatch h.work.symm.trans hw
  latch_is_full _ hw := nomatch h.work.symm.trans hw
  operation_in_slot _ hw := nomatch h.work.symm.trans hw
  phase_fits _ _ hw := nomatch h.work.symm.trans hw

theorem Move.controllerLaw {s t : State} (hm : Move s t) (h : ControllerLaw s) : ControllerLaw t := by
  cases hm with
  | steady hs _ => exact hs.controller h
  | dispatch hu _ =>
    exact controllerLaw_congr h (congrArg _ hu.lc) (congrArg _ hu.lc) (congrArg _ hu.lc) (congrArg _ hu.lc)
  | walk _ => exact controllerLaw_of_choice rfl
  | blank hb _ => exact hb.controllerLaw
  | _ => exact controllerLaw_congr h rfl rfl rfl rfl

/-! ## The remaining of an armed entry (R22) -/

theorem remainingLaw_congr {s t : State} (h : RemainingLaw s) (he : t.lc.entries = s.lc.entries) :
    RemainingLaw t := fun e => by
  rw [entry_congr he]
  exact h e

theorem Blank.remainingLaw {t : State} (h : Blank t) : RemainingLaw t := fun e => by
  rw [h.entry]
  nofun

theorem Move.remainingLaw {s t : State} (hm : Move s t) (hd : DueLaw s) (h : RemainingLaw s) : RemainingLaw t := by
  cases hm with
  | steady hs _ => exact remainingLaw_congr h hs.entries
  | dispatch hu _ => exact remainingLaw_congr h (congrArg _ hu.lc)
  | issue _ _ => exact remainingLaw_congr h rfl
  | configure _ => exact remainingLaw_congr h rfl
  | @rewrite e en hw =>
    intro f
    rw [s.entry_setEntry]
    split
    · exact fun harmed => absurd harmed hw.outside.1
    · exact h f
  | @arm e due occ rem _ _ hrem =>
    intro f
    rw [entry_armWith]
    split
    · intro _ hperiod hlimit
      obtain ⟨hlow, hhigh⟩ := hrem hperiod hlimit
      refine ⟨hlow, hhigh.elim id fun ⟨harmed, hle⟩ => hle.trans (h e harmed hperiod hlimit).2⟩
    · exact h f
  | @stop e occ _ =>
    intro f
    rw [entry_stopped]
    split
    · nofun
    · exact h f
  | walk _ =>
    intro f
    rw [entry_walk hd.once]
    split <;> exact h f
  | blank hb _ => exact hb.remainingLaw

/-! ## The order of the due list (R35, R36, R73) -/

theorem dueOrigin_of_not_adjusting {s : State} (h : s.adjusting = false) : s.dueOrigin = s.time.count := by
  unfold State.dueOrigin
  split
  · next d hw => exact absurd ((adjusting_iff s).2 ⟨d, hw⟩) (by simp [h])
  · rfl

theorem dueOrder_congr {s t : State} (h : s.DueOrder) (he : t.lc.entries = s.lc.entries)
    (hl : t.lc.dueList = s.lc.dueList) (ho : t.dueOrigin = s.dueOrigin) : t.DueOrder := by
  have hdist : t.distanceOf = s.distanceOf := by
    funext e
    simp only [State.distanceOf, State.dueOf, entry_congr he, ho]
  rw [State.DueOrder, hl, hdist]
  exact h

/-- The members of the list keep their distances, or leave. -/
theorem dueOrder_of_sublist {s t : State} (h : s.DueOrder) (hl : t.lc.dueList.Sublist s.lc.dueList)
    (hd : ∀ e ∈ t.lc.dueList, t.distanceOf e = s.distanceOf e) : t.DueOrder :=
  (List.Pairwise.sublist hl h).imp_of_mem fun ha hb hab => by rwa [hd _ ha, hd _ hb]

/-- An insertion puts the new member behind every member whose distance is not greater, and before the others. -/
theorem insertBy_split (dist : EntryNo → Int) (e : EntryNo) {l : List EntryNo}
    (h : l.Pairwise fun a b => dist a ≤ dist b) :
    ∃ before after, l = before ++ after ∧ insertBy dist e l = before ++ e :: after ∧
      (∀ m ∈ before, dist m ≤ dist e) ∧ (∀ m ∈ after, dist e < dist m) := by
  induction l with
  | nil => exact ⟨[], [], rfl, rfl, nofun, nofun⟩
  | cons m ms ih =>
    obtain ⟨hm, hms⟩ := List.pairwise_cons.1 h
    by_cases hle : dist m ≤ dist e
    · obtain ⟨before, after, rfl, hinsert, hbefore, hafter⟩ := ih hms
      refine ⟨m :: before, after, rfl, ?_, List.forall_mem_cons.2 ⟨hle, hbefore⟩, hafter⟩
      rw [insertBy, if_pos hle, hinsert]
      rfl
    · refine ⟨[], m :: ms, rfl, by rw [insertBy, if_neg hle]; rfl, nofun, ?_⟩
      exact List.forall_mem_cons.2 ⟨not_le.1 hle, fun x hx => (not_le.1 hle).trans_le (hm x hx)⟩

theorem insertBy_pairwise (dist : EntryNo → Int) (e : EntryNo) {l : List EntryNo}
    (h : l.Pairwise fun a b => dist a ≤ dist b) : (insertBy dist e l).Pairwise fun a b => dist a ≤ dist b := by
  obtain ⟨before, after, rfl, hinsert, hbefore, hafter⟩ := insertBy_split dist e h
  obtain ⟨hb, ha, hba⟩ := List.pairwise_append.1 h
  rw [hinsert]
  refine List.pairwise_append.2 ⟨hb, List.pairwise_cons.2 ⟨fun x hx => (hafter x hx).le, ha⟩, fun x hx y hy => ?_⟩
  rcases List.mem_cons.1 hy with rfl | hy
  · exact hbefore x hx
  · exact hba x hx y hy

/-- An arm puts its entry in its place among members whose distances stand. -/
theorem dueOrder_arm {s : State} (hd : DueLaw s) (h : s.DueOrder) (hadj : s.adjusting = false) (e : EntryNo)
    (due : Word) (occ rem : Half) : (armWith s e due occ rem).DueOrder := by
  have horigin := dueOrigin_of_not_adjusting hadj
  have hdist : (armWith s e due occ rem).distanceOf = distanceWith s e due := by
    have hsame : (armWith s e due occ rem).dueOrigin = s.time.count := horigin
    funext m
    simp only [State.distanceOf, State.dueOf, entry_armWith, hsame, distanceWith]
    split <;> rfl
  rw [State.DueOrder, hdist]
  refine insertBy_pairwise _ e ((List.Pairwise.sublist (othersDue_sublist s e) h).imp_of_mem fun {a b} ha hb hab => ?_)
  have others {m : EntryNo} (hm : m ∈ othersDue s e) : distanceWith s e due m = s.distanceOf m := by
    rw [distanceWith, if_neg (ne_of_mem_of_not_mem hm (not_mem_othersDue hd e)), State.distanceOf, horigin]
  rwa [others ha, others hb]

/-- A removal leaves the distances of the others. -/
theorem dueOrder_stop {s : State} (hd : DueLaw s) (h : s.DueOrder) (e : EntryNo) (occ : Half) :
    (stopped s e occ).DueOrder := by
  refine dueOrder_of_sublist h List.erase_sublist fun m hm => ?_
  have hne : m ≠ e := (hd.once.mem_erase_iff.1 hm).1
  have horigin : (stopped s e occ).dueOrigin = s.dueOrigin := rfl
  simp only [State.distanceOf, State.dueOf, entry_stopped, if_neg hne, horigin]

/-- DEFINE and RELEASE write no member of the list. -/
theorem dueOrder_rewrite {s : State} (hd : DueLaw s) (h : s.DueOrder) {e : EntryNo} {en : Entry}
    (hw : Rewrite s e en) : (s.setEntry e en).DueOrder := by
  refine dueOrder_of_sublist h (.refl _) fun m hm => ?_
  have hne : m ≠ e := by
    rintro rfl
    exact hw.not_armed ((hd.exactly_armed m).1 hm)
  have horigin : (s.setEntry e en).dueOrigin = s.dueOrigin := rfl
  simp only [State.distanceOf, State.dueOf, s.entry_setEntry, if_neg hne, horigin]

/-- The walk of SET TIME adds the shift to every due time of the list, and the origin moves with it (R73). -/
theorem dueOrder_walk {s : State} {d : Word} (hd : DueLaw s) (h : s.DueOrder)
    (hwork : s.lc.work = .operation (.adjusting d)) : ((s.shiftWalk d).complete .complete).DueOrder := by
  have hold : s.dueOrigin = s.time.count - d := by simp only [State.dueOrigin, hwork]
  have hnew : ((s.shiftWalk d).complete .complete).dueOrigin = s.time.count := by
    refine (dueOrigin_of_not_adjusting (complete_not_adjusting _ _)).trans ?_
    rw [shiftWalk_eq]
    rfl
  have hlist := walk_dueList s d
  refine dueOrder_of_sublist h (hlist ▸ .refl _) fun m hm => ?_
  rw [hlist] at hm
  obtain ⟨due, hdue⟩ := Option.isSome_iff_exists.1 ((hd.due_iff_armed m).2 ((hd.exactly_armed m).1 hm))
  have hshift : due + d - s.time.count = due - (s.time.count - d) := by
    simp only [BitVec.sub_eq_add_neg, BitVec.neg_add, BitVec.neg_neg]
    ac_rfl
  simp only [State.distanceOf, State.dueOf, entry_walk hd.once, if_pos hm, hold, hnew, Entry.shift, hdue, Option.map_some,
    Option.getD_some, signedDiff, hshift]

theorem Move.dueOrder {s t : State} (hm : Move s t) (hd : DueLaw s) (h : s.DueOrder) : t.DueOrder := by
  cases hm with
  | steady hs ho => exact dueOrder_congr h hs.entries hs.dueList ho
  | dispatch hu _ =>
    refine dueOrder_congr h (congrArg _ hu.lc) (congrArg _ hu.lc) ?_
    simp only [State.dueOrigin, hu.lc, hu.count]
  | rewrite hw => exact dueOrder_rewrite hd h hw
  | arm _ hadj _ => exact dueOrder_arm hd h hadj _ _ _ _
  | stop _ => exact dueOrder_stop hd h _ _
  | issue _ _ => exact dueOrder_congr h rfl rfl rfl
  | configure _ => exact dueOrder_congr h rfl rfl rfl
  | walk hw => exact dueOrder_walk hd h hw
  | blank hb _ =>
    rw [State.DueOrder, hb.dueList]
    exact .nil

end Sys2Proof.Machine.Moves

namespace Sys2Proof.Machine.Moves

open ListOperations EventPool Service Arms EntryOperations

/-! # The ledger of records and holders

The laws of the records and of the holder sets, and the order of the stack on which the pushes rest, said of tags alone
(`Ledger`), so that each move keeps them by what it does to the lists of tags. -/

/-! ## The ledger and the two laws -/

/-- The pulse that goes with a post request of this tag. -/
def Tag.pulse? (k : Tag) : Option (OutLine × EntryNo) := k.line.map fun l => (l, k.entry)

/-- What a tag carries matches the definition of its entry (R79). -/
def Fits (s : State) (k : Tag) : Prop := s.matchesDefinition k.entry k.cls k.line

/-- The laws of the records and of the holders, with the order of the stack (R80, R101, R124, R126). -/
structure Ledger (s : State) : Prop where
  waiting_once : ((waiting s).map Tag.entry).Nodup
  serving_once : ((serving s).map Tag.entry).Nodup
  serving_order : (serving s).Pairwise fun upper lower => upper.cls < lower.cls
  waiting_fits : ∀ k ∈ waiting s, Fits s k
  serving_fits : ∀ k ∈ serving s, Fits s k
  posted_fits : ∀ k ∈ posted s, Fits s k
  paired : pulses s = (posted s).filterMap Tag.pulse?
  answer_posts : ∀ p, s.lc.work = .operation (.presence p) → s.link.posts = []
  answer_holds : ∀ p op e, s.lc.work = .operation (.presence p) → s.lc.slot = some op → op.entry? = some e →
    p.any = false → s.hasRecord e = false
  canonical : ∀ l, (holders s l).Pairwise (· < ·)
  held : ∀ l, ∀ e ∈ holders s l, ∃ x ∈ waiting s ++ serving s, x.entry = e ∧ x.line = some l

theorem mem_waiting {s : State} {k : Tag} : k ∈ waiting s ↔ ∃ r ∈ s.du.pool ++ s.du.held, recordTag r = k := List.mem_map

theorem mem_serving {s : State} {k : Tag} : k ∈ serving s ↔ ∃ r ∈ s.du.stack, serviceTag r = k := List.mem_map

/-- An entry has a record exactly when it has a tag. -/
theorem hasRecord_iff_tag (s : State) (e : EntryNo) :
    s.hasRecord e = true ↔ ∃ x ∈ waiting s ++ serving s, x.entry = e := by
  simp only [hasRecord_iff, List.mem_append (s := waiting s), mem_waiting, mem_serving, or_and_right, exists_or,
    exists_exists_and_eq_and, recordTag, serviceTag]

theorem posted_pulses (s : State) : (posted s).filterMap Tag.pulse? = s.link.posts.filterMap PostReq.pulse? := by
  rw [posted, List.filterMap_map]
  rfl

theorem entries_waiting (s : State) : (waiting s).map Tag.entry = (s.du.pool ++ s.du.held).map Record.entry := by
  rw [waiting, List.map_map]
  rfl

theorem entries_serving (s : State) : (serving s).map Tag.entry = s.du.stack.map ServiceRecord.entry := by
  rw [serving, List.map_map]
  rfl

theorem ledger_of_laws {s : State} (hr : RecordLaw s) (hh : HolderLaw s) (hq : QueueLaw s) : Ledger s where
  waiting_once := entries_waiting s ▸ hr.waiting_once
  serving_once := entries_serving s ▸ hr.service_once
  serving_order := List.pairwise_map.2 hq.stack_order
  waiting_fits := List.forall_mem_map.2 hr.waiting_matches
  serving_fits := List.forall_mem_map.2 hr.service_matches
  posted_fits := List.forall_mem_map.2 hr.posts_match
  paired := (posted_pulses s).symm ▸ hr.pulses_paired
  answer_posts := hr.answer_posts
  answer_holds := hr.answer_holds
  canonical := hh.canonical
  held l e he := by
    simp only [List.mem_append (s := waiting s), mem_waiting, mem_serving, or_and_right, exists_or,
      exists_exists_and_eq_and]
    exact hh.has_record l e he

theorem recordLaw_of_ledger {s : State} (h : Ledger s) : RecordLaw s where
  waiting_once := entries_waiting s ▸ h.waiting_once
  service_once := entries_serving s ▸ h.serving_once
  waiting_matches := List.forall_mem_map.1 h.waiting_fits
  service_matches := List.forall_mem_map.1 h.serving_fits
  posts_match := List.forall_mem_map.1 h.posted_fits
  pulses_paired := posted_pulses s ▸ h.paired
  answer_posts := h.answer_posts
  answer_holds := h.answer_holds

theorem holderLaw_of_ledger {s : State} (h : Ledger s) : HolderLaw s where
  canonical := h.canonical
  has_record l e he := by
    have hheld := h.held l e he
    simp only [List.mem_append (s := waiting s), mem_waiting, mem_serving, or_and_right, exists_or,
      exists_exists_and_eq_and] at hheld
    exact hheld

/-! ## Moves that change no list of tags -/

theorem fits_of_sameDefinitions {s t : State} (h : SameDefinitions s t) {k : Tag} (hk : Fits s k) : Fits t k := by
  obtain ⟨hdef, hcls, hline⟩ := hk
  exact ⟨mt (h.free _).1 hdef, by rwa [h.defn], by rwa [h.defn]⟩

/-- Two tags of one entry that match its definition are the same. -/
theorem tag_eq_of_fits {s : State} {j k : Tag} (hj : Fits s j) (hk : Fits s k) (he : j.entry = k.entry) : j = k := by
  obtain ⟨-, hjc, hjl⟩ := hj
  obtain ⟨-, hkc, hkl⟩ := hk
  rw [he] at hjc hjl
  exact Tag.ext he (hjc.symm.trans hkc) (hjl.symm.trans hkl)

/-- No request and no record comes or leaves; members may leave holder sets. -/
theorem ledger_of_same {s t : State} (h : Ledger s) (hd : SameDefinitions s t) (hposts : t.link.posts = s.link.posts)
    (hpulses : pulses t = pulses s) (hwaiting : waiting t = waiting s) (hserving : serving t = serving s)
    (hholders : ∀ l, (holders t l).Sublist (holders s l))
    (hanswer : ∀ p, t.lc.work = .operation (.presence p) →
      (s.lc.work = .operation (.presence p) ∧ s.lc.slot = t.lc.slot) ∨
      (t.link.posts = [] ∧ ∀ op e, t.lc.slot = some op → op.entry? = some e → p = t.presence e)) : Ledger t := by
  have hposted : posted t = posted s := congrArg (List.map postTag) hposts
  have hrecord (e : EntryNo) : t.hasRecord e = s.hasRecord e := by
    rw [Bool.eq_iff_iff, hasRecord_iff_tag, hasRecord_iff_tag, hwaiting, hserving]
  refine ⟨hwaiting ▸ h.waiting_once, hserving ▸ h.serving_once, hserving ▸ h.serving_order, fun k hk => ?_, fun k hk => ?_,
    fun k hk => ?_, ?_, fun p hp => ?_, fun p op e hp hop he hany => ?_, fun l => (h.canonical l).sublist (hholders l),
    fun l e he => ?_⟩
  · exact fits_of_sameDefinitions hd (h.waiting_fits k (hwaiting ▸ hk))
  · exact fits_of_sameDefinitions hd (h.serving_fits k (hserving ▸ hk))
  · exact fits_of_sameDefinitions hd (h.posted_fits k (hposted ▸ hk))
  · rw [hpulses, hposted, h.paired]
  · rcases hanswer p hp with ⟨hold, -⟩ | ⟨hnone, -⟩
    · rw [hposts, h.answer_posts p hold]
    · exact hnone
  · rcases hanswer p hp with ⟨hold, hslot⟩ | ⟨-, hnow⟩
    · exact hrecord e ▸ h.answer_holds p op e hold (hslot.trans hop) he hany
    · exact (congrArg Presence.any (hnow op e hop he)).symm.trans hany
  · rw [hwaiting, hserving]
    exact h.held l e ((hholders l).subset he)

/-- The answer at hand when neither the work in hand nor the slot changes. -/
theorem answer_of_same {s t : State} (hw : t.lc.work = s.lc.work) (hs : t.lc.slot = s.lc.slot) (p : Presence)
    (hp : t.lc.work = .operation (.presence p)) :
    (s.lc.work = .operation (.presence p) ∧ s.lc.slot = t.lc.slot) ∨
      (t.link.posts = [] ∧ ∀ op e, t.lc.slot = some op → op.entry? = some e → p = t.presence e) :=
  .inl ⟨hw ▸ hp, hs.symm⟩

/-- A change of the list controller's table, list and work alone. -/
theorem ledger_of_list {s : State} (h : Ledger s) {c : ListController} (hd : SameDefinitions s { s with lc := c })
    (hw : c.work = s.lc.work) (hs : c.slot = s.lc.slot) : Ledger { s with lc := c } :=
  ledger_of_same h hd rfl rfl rfl rfl (fun _ => .refl _) (answer_of_same hw hs)

/-! ## Records that leave, and records that go into service (R84, R85, R103) -/

/-- Records and requests of an unchanged entry table. -/
theorem fits_of_lc {s t : State} (hlc : t.lc = s.lc) {k : Tag} (hk : Fits s k) : Fits t k :=
  fits_of_sameDefinitions (.of_entries (congrArg _ hlc)) hk

/-- An entry that has no record more has none left. -/
theorem hasRecord_of_subset {s t : State} (h : ∀ x ∈ waiting t ++ serving t, x ∈ waiting s ++ serving s) {e : EntryNo}
    (he : s.hasRecord e = false) : t.hasRecord e = false := by
  rw [Bool.eq_false_iff, ne_eq, hasRecord_iff_tag] at he ⊢
  exact fun ⟨x, hx, hxe⟩ => he ⟨x, h x hx, hxe⟩

theorem ledger_leaves {s t : State} {k : Tag} (hlc : t.lc = s.lc) (hl : Leaves s t k) (h : Ledger s) : Ledger t := by
  have hposted : posted t = posted s := congrArg (List.map postTag) hl.posts
  have hmem : ∀ x ∈ waiting t ++ serving t, x ∈ waiting s ++ serving s :=
    (hl.waiting.append hl.serving).subset
  have hfits : ∀ x ∈ waiting s ++ serving s, Fits s x := fun x hx =>
    (List.mem_append.1 hx).elim (h.waiting_fits x) (h.serving_fits x)
  refine ⟨h.waiting_once.sublist (hl.waiting.map _), h.serving_once.sublist (hl.serving.map _),
    h.serving_order.sublist hl.serving, fun x hx => ?_, fun x hx => ?_, fun x hx => ?_, ?_, fun p hp => ?_,
    fun p op e hp hop he hany => ?_, fun l => (h.canonical l).sublist (hl.holders l), fun l e he => ?_⟩
  · exact fits_of_lc hlc (h.waiting_fits x (hl.waiting.subset hx))
  · exact fits_of_lc hlc (h.serving_fits x (hl.serving.subset hx))
  · exact fits_of_lc hlc (h.posted_fits x (hposted ▸ hx))
  · rw [hl.pulses, hposted, h.paired]
  · rw [hl.posts]
    exact h.answer_posts p (hlc ▸ hp)
  · exact hasRecord_of_subset hmem (h.answer_holds p op e (hlc ▸ hp) (hlc ▸ hop) he hany)
  · obtain ⟨x, hx, hxe, hxl⟩ := h.held l e ((hl.holders l).subset he)
    rcases hl.staying x hx with rfl | hstay
    · subst hxe
      obtain ⟨y, hy, hye⟩ := hl.released l hxl he
      have hyx : y = x := tag_eq_of_fits (hfits y (hmem y hy)) (hfits x hx) hye
      exact ⟨y, hy, hye, hyx ▸ hxl⟩
    · exact ⟨x, hstay, hxe, hxl⟩

/-- A record of a class below that of the top is of an entry that is not in service. -/
theorem not_serving_of_top {s : State} {k : Tag} (h : Ledger s) (hk : Fits s k)
    (htop : ∀ x xs, serving s = x :: xs → k.cls < x.cls) : ∀ x ∈ serving s, x.cls > k.cls ∧ x.entry ≠ k.entry := by
  have hclass : ∀ x ∈ serving s, k.cls < x.cls := by
    have horder := h.serving_order
    cases hs : serving s with
    | nil => nofun
    | cons x xs =>
      rw [hs] at horder
      have hx := htop x xs hs
      exact List.forall_mem_cons.2 ⟨hx, fun y hy => hx.trans ((List.pairwise_cons.1 horder).1 y hy)⟩
  refine fun x hx => ⟨hclass x hx, fun he => ?_⟩
  have := hclass x hx
  rw [tag_eq_of_fits (h.serving_fits x hx) hk he] at this
  exact lt_irrefl _ this

theorem ledger_serves {s t : State} {k : Tag} (hlc : t.lc = s.lc) (hv : Serves s t k) (h : Ledger s) : Ledger t := by
  have hposted : posted t = posted s := congrArg (List.map postTag) hv.posts
  have hk := h.waiting_fits k hv.waited
  have hbelow := not_serving_of_top h hk hv.top
  have hmem : ∀ x ∈ waiting t ++ serving t, x ∈ waiting s ++ serving s := fun x hx => by
    rw [hv.serving] at hx
    rcases List.mem_append.1 hx with hx | hx
    · exact List.mem_append_left _ (hv.waiting.subset hx)
    · rcases List.mem_cons.1 hx with rfl | hx
      · exact List.mem_append_left _ hv.waited
      · exact List.mem_append_right _ hx
  refine ⟨h.waiting_once.sublist (hv.waiting.map _), ?_, ?_, fun x hx => ?_, fun x hx => ?_, fun x hx => ?_, ?_,
    fun p hp => ?_, fun p op e hp hop he hany => ?_, fun l => hv.holders l ▸ h.canonical l, fun l e he => ?_⟩
  · rw [hv.serving]
    refine List.nodup_cons.2 ⟨fun hin => ?_, h.serving_once⟩
    obtain ⟨x, hx, hxe⟩ := List.mem_map.1 hin
    exact (hbelow x hx).2 hxe
  · rw [hv.serving]
    exact List.pairwise_cons.2 ⟨fun x hx => (hbelow x hx).1, h.serving_order⟩
  · exact fits_of_lc hlc (h.waiting_fits x (hv.waiting.subset hx))
  · rw [hv.serving] at hx
    exact fits_of_lc hlc (List.forall_mem_cons.2 ⟨hk, h.serving_fits⟩ x hx)
  · exact fits_of_lc hlc (h.posted_fits x (hposted ▸ hx))
  · rw [hv.pulses, hposted, h.paired]
  · rw [hv.posts]
    exact h.answer_posts p (hlc ▸ hp)
  · exact hasRecord_of_subset hmem (h.answer_holds p op e (hlc ▸ hp) (hlc ▸ hop) he hany)
  · rw [hv.holders] at he
    obtain ⟨x, hx, hxe, hxl⟩ := h.held l e he
    refine ⟨x, ?_, hxe, hxl⟩
    rw [hv.serving]
    rcases List.mem_append.1 hx with hx | hx
    · rcases hv.staying x hx with rfl | hstay
      · simp
      · exact List.mem_append_left _ hstay
    · exact List.mem_append_right _ (List.mem_cons_of_mem _ hx)

/-! ## Post requests (R80 to R83, R124) -/

/-- A post request p at the head of the queue joins the records, with its PULSE when it has one. -/
structure Joins (s t : State) (p : PostReq) (ps : List PostReq) : Prop where
  before : s.link.posts = p :: ps
  posts : t.link.posts = ps
  pulses : pulses s = (postTag p).pulse?.toList ++ pulses t
  waiting : (∃ k ∈ waiting s, k.entry = p.entry) ∧ Moves.waiting t = waiting s ∨
    (∀ k ∈ waiting s, k.entry ≠ p.entry) ∧ (Moves.waiting t).Perm (postTag p :: waiting s)
  serving : serving t = serving s
  holders : ∀ l, holders t l = holders s l ∨ p.pulseLine = some l ∧ holders t l = insertHolder p.entry (holders s l)

/-- The waiting tags after a post request are those before it and its own, each entry's once. -/
theorem waiting_joins {s t : State} {p : PostReq} {ps : List PostReq} (hj : Joins s t p ps) (h : Ledger s) :
    ((waiting t).map Tag.entry).Nodup ∧ ∀ x, x ∈ waiting t ↔ x = postTag p ∨ x ∈ waiting s := by
  have hp : Fits s (postTag p) := h.posted_fits _ (by simp [posted, hj.before])
  rcases hj.waiting with ⟨⟨k, hk, hke⟩, hsame⟩ | ⟨hnone, hperm⟩
  · obtain rfl : k = postTag p := tag_eq_of_fits (h.waiting_fits k hk) hp hke
    rw [hsame]
    exact ⟨h.waiting_once, fun x => ⟨.inr, fun hx => hx.elim (· ▸ hk) id⟩⟩
  · refine ⟨(hperm.map Tag.entry).nodup_iff.2 (List.nodup_cons.2 ⟨fun hin => ?_, h.waiting_once⟩), fun x => ?_⟩
    · obtain ⟨k, hk, hke⟩ := List.mem_map.1 hin
      exact hnone k hk hke
    · rw [hperm.mem_iff, List.mem_cons]

theorem ledger_joins {s t : State} {p : PostReq} {ps : List PostReq} (hlc : t.lc = s.lc) (hj : Joins s t p ps)
    (h : Ledger s) : Ledger t := by
  obtain ⟨honce, hmem⟩ := waiting_joins hj h
  have hbefore : posted s = postTag p :: posted t := by simp [posted, hj.before, hj.posts]
  have hp : Fits s (postTag p) := h.posted_fits _ (by simp [hbefore])
  have hno (q : Presence) : t.lc.work ≠ .operation (.presence q) := fun hw =>
    absurd (h.answer_posts q (hlc ▸ hw)) (by simp [hj.before])
  refine ⟨honce, hj.serving ▸ h.serving_once, hj.serving ▸ h.serving_order, fun x hx => ?_, fun x hx => ?_, fun x hx => ?_,
    ?_, fun q hw => absurd hw (hno q), fun q _ _ hw => absurd hw (hno q), fun l => ?_, fun l e he => ?_⟩
  · exact fits_of_lc hlc (((hmem x).1 hx).elim (· ▸ hp) (h.waiting_fits x))
  · exact fits_of_lc hlc (h.serving_fits x (hj.serving ▸ hx))
  · exact fits_of_lc hlc (h.posted_fits x (hbefore ▸ List.mem_cons_of_mem _ hx))
  · have hpaired := h.paired
    rw [hj.pulses, hbefore, List.filterMap_cons] at hpaired
    cases hpulse : (postTag p).pulse? with
    | none => simpa [hpulse] using hpaired
    | some q => simpa [hpulse] using hpaired
  · rcases hj.holders l with hsame | ⟨-, hjoin⟩
    · exact hsame ▸ h.canonical l
    · exact hjoin ▸ insertHolder_sorted _ _ (h.canonical l)
  · have hold (he : e ∈ holders s l) : ∃ x ∈ waiting t ++ serving t, x.entry = e ∧ x.line = some l := by
      obtain ⟨x, hx, hxl⟩ := h.held l e he
      refine ⟨x, ?_, hxl⟩
      rw [hj.serving]
      exact List.mem_append.2 ((List.mem_append.1 hx).imp_left fun hx => (hmem x).2 (.inr hx))
    rcases hj.holders l with hsame | ⟨hline, hjoin⟩
    · exact hold (hsame ▸ he)
    · rw [hjoin, mem_insertHolder] at he
      rcases he with rfl | he
      · exact ⟨postTag p, List.mem_append_left _ ((hmem _).2 (.inl rfl)), rfl, hline⟩
      · exact hold he

/-- A merge changes no tag. -/
theorem mergeInto_tags (e : EntryNo) (rs : List Record) : (mergeInto e rs).map recordTag = rs.map recordTag := by
  rw [mergeInto, List.map_map]
  refine List.map_congr_left fun r _ => ?_
  simp only [Function.comp_apply]
  split <;> rfl

theorem not_waiting {s : State} {e : EntryNo} (hp : s.hasEvent e = false) (hh : s.hasHeld e = false) :
    ∀ k ∈ waiting s, k.entry ≠ e := by
  intro k hk hke
  obtain ⟨r, hr, rfl⟩ := mem_waiting.1 hk
  rcases List.mem_append.1 hr with hr | hr
  · exact absurd ((hasEvent_iff s e).2 ⟨r, hr, hke⟩) (by simp [hp])
  · exact absurd ((hasHeld_iff s e).2 ⟨r, hr, hke⟩) (by simp [hh])

/-- A post request raises a waiting record of its entry, or makes the one (R80). -/
theorem postCase_waiting (s : State) (p : PostReq) :
    (∃ k ∈ waiting s, k.entry = p.entry) ∧ waiting (s.postCase p) = waiting s ∨
      (∀ k ∈ waiting s, k.entry ≠ p.entry) ∧ (waiting (s.postCase p)).Perm (postTag p :: waiting s) := by
  rcases s.postCase_cases p with ⟨hp, heq⟩ | ⟨hp, hh, heq⟩ | ⟨hp, hh, -, heq⟩ | ⟨hp, hh, -, heq⟩ <;> rw [heq]
  · obtain ⟨r, hr, hre⟩ := (hasEvent_iff s p.entry).1 hp
    refine .inl ⟨⟨recordTag r, mem_waiting.2 ⟨r, List.mem_append_left _ hr, rfl⟩, hre⟩, ?_⟩
    simp only [waiting, List.map_append, mergeInto_tags]
  · obtain ⟨r, hr, hre⟩ := (hasHeld_iff s p.entry).1 hh
    refine .inl ⟨⟨recordTag r, mem_waiting.2 ⟨r, List.mem_append_right _ hr, rfl⟩, hre⟩, ?_⟩
    simp only [waiting, List.map_append, mergeInto_tags]
  · refine .inr ⟨not_waiting hp hh, ?_⟩
    simp only [waiting, List.map_append, List.append_assoc]
    exact List.perm_middle
  · refine .inr ⟨not_waiting hp hh, ?_⟩
    simp only [waiting, State.setCause, ← List.append_assoc, List.map_append (l₂ := [p.record])]
    exact List.perm_append_singleton _ _

/-- A post request leaves the stack, the lines and the links. -/
theorem postCase_rest (s : State) (p : PostReq) :
    (s.postCase p).du.stack = s.du.stack ∧ (s.postCase p).line = s.line ∧ (s.postCase p).link = s.link ∧
      (s.postCase p).lc = s.lc := by
  rcases s.postCase_cases p with ⟨_, h⟩ | ⟨_, _, h⟩ | ⟨_, _, _, h⟩ | ⟨_, _, _, h⟩ <;> rw [h] <;> exact ⟨rfl, rfl, rfl, rfl⟩

/-- An action request that is no PULSE leaves the holder sets. -/
theorem holders_perform_base {a : ActionReq} (h : a.pulse? = none) (s : State) (l : OutLine) :
    holders (s.perform a) l = holders s l := by
  cases a with
  | pulse m e => cases h
  | set m | clear m | toggle m =>
    simp only [holders, State.perform, State.setOut, Fin.getElem_fin, Vector.getElem_set]
    split
    · next heq => simp only [heq]
    · rfl

/-- A PULSE puts its entry into the holder set of its line (R124). -/
theorem holders_perform_pulse (s : State) (m l : OutLine) (e : EntryNo) :
    holders (s.perform (.pulse m e)) l = if m = l then insertHolder e (holders s l) else holders s l := by
  simp only [holders, State.perform, State.setOut, Fin.getElem_fin, Vector.getElem_set, Fin.ext_iff]
  split
  · next heq => simp only [heq, OutputLine.hold]
  · rfl

theorem holders_performAll_base {as : List ActionReq} (h : ∀ a ∈ as, a.pulse? = none) (s : State) (l : OutLine) :
    holders (s.performAll as) l = holders s l := by
  induction as generalizing s with
  | nil => rfl
  | cons a as ih =>
    exact (ih (fun b hb => h b (List.mem_cons_of_mem _ hb)) _).trans (holders_perform_base (h a List.mem_cons_self) s l)

/-- A queue of action requests whose first PULSE is known. -/
theorem actions_split {as : List ActionReq} {m : OutLine} {e : EntryNo} {rest : List (OutLine × EntryNo)}
    (h : as.filterMap ActionReq.pulse? = (m, e) :: rest) :
    ∃ before after, as = before ++ .pulse m e :: after ∧ (∀ a ∈ before, a.pulse? = none) ∧
      after.filterMap ActionReq.pulse? = rest := by
  obtain ⟨before, a, after, rfl, hbefore, ha, hafter⟩ := List.filterMap_eq_cons_iff.1 h
  cases a with
  | pulse l x =>
    obtain ⟨rfl, rfl⟩ := Prod.mk.inj (Option.some.inj ha)
    exact ⟨before, after, rfl, hbefore, hafter⟩
  | set l | clear l | toggle l => cases ha


/-- A post request decides by the dispatch unit alone what it leaves there. -/
theorem postCase_du_congr {s u : State} (h : u.du = s.du) (p : PostReq) : (u.postCase p).du = (s.postCase p).du := by
  simp only [State.postCase, State.hasEvent, State.hasHeld, h]
  repeat' split
  all_goals rfl

/-- What makes a post request join. -/
theorem joins_of_postCase {s t : State} {p : PostReq} {ps : List PostReq} (hbefore : s.link.posts = p :: ps)
    (hdu : t.du = (s.postCase p).du) (hposts : t.link.posts = ps)
    (hpulses : pulses s = (postTag p).pulse?.toList ++ pulses t)
    (hholders : ∀ l, holders t l = holders s l ∨
      p.pulseLine = some l ∧ holders t l = insertHolder p.entry (holders s l)) : Joins s t p ps where
  before := hbefore
  posts := hposts
  pulses := hpulses
  waiting := by
    have hsame : waiting t = waiting (s.postCase p) := by simp only [waiting, hdu]
    rw [hsame]
    exact postCase_waiting s p
  serving := by
    obtain ⟨hstack, -⟩ := postCase_rest s p
    simp only [serving, hdu, hstack]
  holders := hholders

/-- A post request is taken whatever requests stand behind it. -/
theorem postCase_withRequests (s : State) (ps : List PostReq) (as : List ActionReq) (p : PostReq) :
    (withRequests s ps as).postCase p = withRequests (s.postCase p) ps as := by
  simp only [withRequests, postCase_setLink, State.postCase_link]

/-- A post request that names no pulse line is taken alone. -/
theorem joins_plain {s : State} {p : PostReq} {ps : List PostReq} (h : s.link.posts = p :: ps)
    (hp : p.pulseLine = none) : Joins s ((withPosts s ps).postCase p) p ps := by
  obtain ⟨-, hline, hlink, -⟩ := postCase_rest (withPosts s ps) p
  have hdu : (withPosts s ps).du = s.du := rfl
  refine joins_of_postCase h (postCase_du_congr hdu p) (congrArg _ hlink) ?_ fun l => .inl ?_
  · simp only [pulses, hlink, postTag, Tag.pulse?, hp]
    rfl
  · simp only [holders, hline]
    rfl

/-- The first PULSE under way is that of the first post request that names a line (R124). -/
theorem pulse_of_paired {s : State} (h : Ledger s) {p : PostReq} {ps : List PostReq} {l : OutLine}
    (hposts : s.link.posts = p :: ps) (hp : p.pulseLine = some l) :
    ∃ before after, s.link.actions = before ++ .pulse l p.entry :: after ∧ (∀ a ∈ before, a.pulse? = none) :=  by
  have hpaired := h.paired
  simp only [pulses, posted, hposts, List.map_cons, List.filterMap_cons, postTag, Tag.pulse?, hp, Option.map_some] at hpaired
  obtain ⟨before, after, hsplit, hbefore, -⟩ := actions_split hpaired
  exact ⟨before, after, hsplit, hbefore⟩

/-- A PULSE expiry's two requests are taken together. -/
theorem joins_takePost {s : State} (h : Ledger s) {p : PostReq} {ps : List PostReq} (hposts : s.link.posts = p :: ps) :
    Joins s ((withPosts s ps).takePost p) p ps := by
  cases hp : p.pulseLine with
  | none =>
    simp only [State.takePost, hp]
    exact joins_plain hposts hp
  | some l =>
    obtain ⟨before, after, hactions, hbefore⟩ := pulse_of_paired h hposts hp
    have hsplit : splitPulse (withPosts s ps).link.actions = (before ++ [.pulse l p.entry], after) := by
      rw [withPosts, hactions, splitPulse_at_pulse hbefore]
    have htake : (withPosts s ps).takePulse = withRequests ((s.performAll before).perform (.pulse l p.entry)) ps after := by
      simp only [State.takePulse, hsplit]
      simp only [withPosts, withRequests, performAll_setLink, State.performAll_link, State.perform_link]
      rw [State.performAll, List.foldl_append]
      rfl
    have hdu : ((withPosts s ps).takePulse).du = s.du := State.takePulse_du _
    obtain ⟨-, hline, hlink, -⟩ := postCase_rest (withPosts s ps).takePulse p
    simp only [State.takePost, hp, Option.isSome_some, if_true]
    refine joins_of_postCase hposts (postCase_du_congr hdu p) ?_ ?_ fun m => ?_
    · rw [hlink, htake, withRequests]
    · have hnone : before.filterMap ActionReq.pulse? = [] := List.filterMap_eq_nil_iff.2 hbefore
      rw [pulses, pulses, hlink, htake, hactions, List.filterMap_append, hnone]
      simp only [withRequests, postTag, Tag.pulse?, hp]
      rfl
    · have hfinal : holders ((withPosts s ps).takePulse.postCase p) m =
          if l = m then insertHolder p.entry (holders s m) else holders s m := by
        rw [← holders_performAll_base hbefore s m, ← holders_perform_pulse, holders, hline, htake]
        rfl
      rw [hfinal]
      split
      · next heq => exact .inr ⟨heq ▸ hp, rfl⟩
      · exact .inl rfl

/-- The PULSE of a post request, taken with it. -/
theorem joins_pulse {s : State} {p : PostReq} {l : OutLine} {after : List PostReq} {as : List ActionReq}
    (hposts : s.link.posts = p :: after) (hp : p.pulseLine = some l) (hactions : s.link.actions = .pulse l p.entry :: as) :
    Joins s (((withRequests s after as).postCase p).perform (.pulse l p.entry)) p after := by
  obtain ⟨-, hline, hlink, -⟩ := postCase_rest (withRequests s after as) p
  have hdu : (withRequests s after as).du = s.du := rfl
  refine joins_of_postCase hposts ?_ ?_ ?_ fun m => ?_
  · rw [State.perform_du]
    exact postCase_du_congr hdu p
  · rw [State.perform_link, hlink]
    rfl
  · rw [pulses, pulses, State.perform_link, hlink, hactions]
    simp only [postTag, Tag.pulse?, hp]
    rfl
  · have hsame : holders ((withRequests s after as).postCase p) m = holders s m := by
      rw [holders, hline]
      rfl
    rw [holders_perform_pulse, hsame]
    split
    · next heq => exact .inr ⟨heq ▸ hp, rfl⟩
    · exact .inl rfl

/-- The post requests up to one that names a line are taken in order, and then its PULSE (R124). -/
theorem ledger_pulse_run {before : List PostReq} (hbefore : ∀ x ∈ before, x.pulseLine = none) {p : PostReq} {l : OutLine}
    (hp : p.pulseLine = some l) {after : List PostReq} {as : List ActionReq} {s : State} (h : Ledger s)
    (hposts : s.link.posts = before ++ p :: after) (hactions : s.link.actions = .pulse l p.entry :: as) :
    Ledger (((before ++ [p]).foldl State.postCase (withRequests s after as)).perform (.pulse l p.entry)) := by
  induction before generalizing s with
  | nil => exact ledger_joins (by simp [withRequests]) (joins_pulse hposts hp hactions) h
  | cons q before ih =>
    have hq := hbefore q List.mem_cons_self
    have hjoin := joins_plain (s := s) (p := q) (ps := before ++ p :: after) hposts hq
    obtain ⟨-, -, hlink, hlc⟩ := postCase_rest (withPosts s (before ++ p :: after)) q
    have hledger : Ledger ((withPosts s (before ++ p :: after)).postCase q) := ledger_joins (s := s) hlc hjoin h
    have hnext := ih (fun x hx => hbefore x (List.mem_cons_of_mem _ hx)) hledger hjoin.posts
      ((congrArg Links.actions hlink).trans hactions)
    rw [← postCase_withRequests] at hnext
    exact hnext

/-- A PULSE at the head of the queue has its post request, behind others that name no line (R124). -/
theorem post_of_paired {s : State} (h : Ledger s) {l : OutLine} {e : EntryNo} {as : List ActionReq}
    (hactions : s.link.actions = .pulse l e :: as) :
    ∃ before p after, s.link.posts = before ++ p :: after ∧ (∀ x ∈ before, x.pulseLine = none) ∧
      p.pulseLine = some l ∧ p.entry = e := by
  have hpaired : s.link.posts.filterMap PostReq.pulse? = (l, e) :: as.filterMap ActionReq.pulse? := by
    rw [← posted_pulses, ← h.paired, pulses, hactions]
    rfl
  obtain ⟨before, p, after, hsplit, hbefore, hp, -⟩ := List.filterMap_eq_cons_iff.1 hpaired
  obtain ⟨m, hm, hpair⟩ := Option.map_eq_some_iff.1 hp
  obtain ⟨rfl, rfl⟩ := Prod.mk.inj hpair
  exact ⟨before, p, after, hsplit, fun x hx => Option.map_eq_none_iff.1 (hbefore x hx), hm, rfl⟩

theorem ledger_pulseTaken {s : State} (h : Ledger s) {l : OutLine} {e : EntryNo} {as : List ActionReq}
    (hactions : s.link.actions = .pulse l e :: as) : Ledger (pulseTaken s l e as) := by
  obtain ⟨before, p, after, hposts, hbefore, hp, rfl⟩ := post_of_paired h hactions
  rw [pulseTaken, hposts, OutputLines.splitPost_at_line hbefore (by simp [hp])]
  exact ledger_pulse_run hbefore hp h hposts hactions

theorem ledger_dispatch {s t : State} (hu : Untouched s t) (hm : Dispatch s t) (h : Ledger s) : Ledger t := by
  cases hm with
  | leaves hl => exact ledger_leaves hu.lc hl h
  | serves hv => exact ledger_serves hu.lc hv h
  | post hposts => exact ledger_joins hu.lc (joins_takePost h hposts) h
  | pulse hactions => exact ledger_pulseTaken h hactions

/-! ## Definitions written, and expiries (R25 to R30, R50, R51) -/

/-- An entry without records and posts has no tag. -/
theorem untraced_tags {s : State} (h : Ledger s) {e : EntryNo} (hu : Untraced s e) :
    ∀ k ∈ waiting s ++ serving s ++ posted s, k.entry ≠ e := by
  have hnone : s.link.posts = [] ∧ s.hasRecord e = false := by
    rcases hu with hnow | ⟨p, op, hw, hop, he, hany⟩
    · exact hnow
    · exact ⟨h.answer_posts p hw, h.answer_holds p op e hw hop he hany⟩
  obtain ⟨hposts, hrecord⟩ := hnone
  intro k hk hke
  rw [posted, hposts, List.map_nil, List.append_nil] at hk
  exact absurd ((hasRecord_iff_tag s e).2 ⟨k, hk, hke⟩) (by simp [hrecord])

theorem ledger_rewrite {s : State} (h : Ledger s) {e : EntryNo} {en : Entry} (hw : Rewrite s e en) :
    Ledger (s.setEntry e en) := by
  have htags := untraced_tags h hw.untraced
  have fits {k : Tag} (hk : k ∈ waiting s ++ serving s ++ posted s) (hfit : Fits s k) : Fits (s.setEntry e en) k := by
    simp only [Fits, State.matchesDefinition, s.entry_setEntry, if_neg (htags k hk)]
    exact hfit
  exact ⟨h.waiting_once, h.serving_once, h.serving_order,
    fun k hk => fits (List.mem_append_left _ (List.mem_append_left _ hk)) (h.waiting_fits k hk),
    fun k hk => fits (List.mem_append_left _ (List.mem_append_right _ hk)) (h.serving_fits k hk),
    fun k hk => fits (List.mem_append_right _ hk) (h.posted_fits k hk), h.paired, h.answer_posts, h.answer_holds,
    h.canonical, h.held⟩

/-- The tags of the post request of an expiry. -/
theorem posted_issued (s : State) (e : EntryNo) : posted (issued s e) = posted s ++
    if (s.entry e).defn.delivery = .post then
      [{ entry := e, cls := (s.entry e).defn.cls, line := (s.entry e).defn.pulseLine }] else [] := by
  rw [issued_eq]
  simp only [posted, List.map_append]
  split <;> rfl

/-- The pulse of the action request of an expiry. -/
theorem pulses_issued (s : State) (e : EntryNo) : pulses (issued s e) = pulses s ++
    ((s.entry e).defn.pulseLine.map fun l => (l, e)).toList := by
  rw [issued_eq]
  simp only [pulses, List.filterMap_append]
  congr 1
  cases ho : (s.entry e).defn.output with
  | none => simp [Definition.pulseLine, ho]
  | some o =>
    cases ha : o.act <;> simp [Definition.pulseLine, ho, Output.request, ha, ActionReq.pulse?]

/-- A legal definition that pulses a line posts (R17, R26). -/
theorem post_of_pulseLine {d : Definition} (h : d.legal = true) {l : OutLine} (hl : d.pulseLine = some l) :
    d.delivery = .post := by
  cases ho : d.output with
  | none => simp [Definition.pulseLine, ho] at hl
  | some o =>
    have ha : o.act = .pulse := by
      by_contra hne
      simp [Definition.pulseLine, ho, hne] at hl
    simp only [Definition.legal, ho, ha, Bool.and_eq_true] at h
    obtain ⟨⟨-, h⟩, -⟩ := h
    simpa using h

theorem ledger_issue {s : State} (hd : DefinitionLaw s) (h : Ledger s) {e : EntryNo} (hdef : (s.entry e).timing ≠ .free)
    (hwork : ∀ ph, s.lc.work ≠ .operation ph) : Ledger (issued s e) := by
  refine ⟨h.waiting_once, h.serving_once, h.serving_order, h.waiting_fits, h.serving_fits, fun k hk => ?_, ?_,
    fun p hp => absurd hp (hwork _), fun p _ _ hp => absurd hp (hwork _), h.canonical, h.held⟩
  · rw [posted_issued, List.mem_append] at hk
    rcases hk with hk | hk
    · exact h.posted_fits k hk
    · split at hk
      · obtain rfl := List.mem_singleton.1 hk
        exact ⟨hdef, rfl, rfl⟩
      · cases hk
  · rw [pulses_issued, posted_issued, List.filterMap_append, ← h.paired]
    congr 1
    cases hl : (s.entry e).defn.pulseLine with
    | none => split <;> rfl
    | some l =>
      rw [if_pos (post_of_pulseLine (hd e hdef) hl)]
      rfl

/-! ## Every move -/

theorem Blank.ledger {t : State} (h : Blank t) : Ledger t := by
  have hwaiting : waiting t = [] := by simp [waiting, h.pool, h.held]
  have hserving : serving t = [] := by simp [serving, h.stack]
  have hposted : posted t = [] := by simp [posted, h.posts]
  have hno (p : Presence) : t.lc.work ≠ .operation (.presence p) := by simp [h.work]
  exact ⟨by simp [hwaiting], by simp [hserving], by simp [hserving], by simp [hwaiting], by simp [hserving],
    by simp [hposted], by simp [pulses, h.actions, hposted], fun p hp => absurd hp (hno p),
    fun p _ _ hp => absurd hp (hno p), fun l => by simp [h.holders], fun l e he => by simp [h.holders] at he⟩

theorem ledger_walk {s : State} (hd : DueLaw s) (h : Ledger s) (d : Word) : Ledger ((s.shiftWalk d).complete .complete) := by
  refine ledger_of_same h (sameDefinitions_walk hd d) ?_ ?_ ?_ ?_ (fun l => ?_) fun p hp =>
    absurd hp (complete_work_ne_operation _ _ _)
  all_goals rw [shiftWalk_eq]
  · rfl
  · rfl
  · rfl
  · rfl
  · exact .refl _

theorem Move.ledger {s t : State} (hm : Move s t) (hd : DueLaw s) (hdef : DefinitionLaw s) (h : Ledger s) :
    Ledger t := by
  cases hm with
  | steady hs _ =>
    exact ledger_of_same h (.of_entries hs.entries) hs.posts hs.pulses hs.waiting hs.serving hs.holders hs.answer
  | dispatch hu hm => exact ledger_dispatch hu hm h
  | rewrite hw => exact ledger_rewrite h hw
  | arm hfree _ _ => exact ledger_of_list h (sameDefinitions_arm hfree) rfl rfl
  | stop harmed => exact ledger_of_list h (sameDefinitions_stop harmed) rfl rfl
  | issue hfree hwork => exact ledger_issue hdef h hfree hwork
  | configure _ =>
    exact ledger_of_same h (.of_entries rfl) rfl rfl rfl rfl (fun _ => .refl _) (answer_of_same rfl rfl)
  | walk _ => exact ledger_walk hd h _
  | blank hb _ => exact hb.ledger

end Sys2Proof.Machine.Moves

namespace Sys2Proof.Machine.Moves

open ListOperations EventPool Service RegisterWindow Arms EntryOperations

/-! # What each arrival at the dispatch unit and the lines is made of

Each operation of these blocks is a sequence of moves. -/

/-! ## Quiet moves -/

/-- Nothing changes that the laws of the list controller and of the records read, but that members may leave holder sets. -/
structure Quiet (s t : State) : Prop where
  lc : t.lc = s.lc
  count : t.time.count = s.time.count
  trigger : ∀ n, t.trigger n = s.trigger n
  posts : t.link.posts = s.link.posts
  pulses : pulses t = pulses s
  waiting : waiting t = waiting s
  serving : serving t = serving s
  holders : ∀ l, (holders t l).Sublist (holders s l)
  asserted : t.win.resetAsserted = true → s.win.resetAsserted = true

theorem dueOrigin_congr {s t : State} (hcount : t.time.count = s.time.count) (hwork : t.lc.work = s.lc.work) :
    t.dueOrigin = s.dueOrigin := by
  simp only [State.dueOrigin, hcount, hwork]

theorem Quiet.reach {s t : State} (h : Quiet s t) : Reach s t :=
  .single <| .steady
    { entries := congrArg _ h.lc, dueList := congrArg _ h.lc, trigger := h.trigger, posts := h.posts, pulses := h.pulses
      waiting := h.waiting, serving := h.serving, holders := h.holders, asserted := h.asserted
      controller := fun hc => controllerLaw_congr hc (congrArg _ h.lc) (congrArg _ h.lc) (congrArg _ h.lc) (congrArg _ h.lc)
      answer := answer_of_same (congrArg _ h.lc) (congrArg _ h.lc) }
    (dueOrigin_congr h.count (congrArg _ h.lc))

/-- What the laws read outside the work in hand, and the count. -/
structure Core where
  entries : Vector Entry 64
  dueList : List EntryNo
  trigger : InLine → Option EntryNo
  posts : List PostReq
  pulses : List (OutLine × EntryNo)
  waiting : List Tag
  serving : List Tag
  holders : OutLine → List EntryNo
  asserted : Bool

def core (s : State) : Core where
  entries := s.lc.entries
  dueList := s.lc.dueList
  trigger := s.trigger
  posts := s.link.posts
  pulses := pulses s
  waiting := waiting s
  serving := serving s
  holders := holders s
  asserted := s.win.resetAsserted

/-- A change of the work in hand alone. -/
theorem Steady.of_core {s t : State} (h : core t = core s) (hc : ControllerLaw s → ControllerLaw t)
    (ha : ∀ p, t.lc.work = .operation (.presence p) →
      (s.lc.work = .operation (.presence p) ∧ s.lc.slot = t.lc.slot) ∨
      (t.link.posts = [] ∧ ∀ op e, t.lc.slot = some op → op.entry? = some e → p = t.presence e)) : Steady s t where
  entries := congrArg Core.entries h
  dueList := congrArg Core.dueList h
  trigger := congrFun (congrArg Core.trigger h)
  posts := congrArg Core.posts h
  pulses := congrArg Core.pulses h
  waiting := congrArg Core.waiting h
  serving := congrArg Core.serving h
  holders l := by
    have hsame : Moves.holders t l = Moves.holders s l := congrFun (congrArg Core.holders h) l
    rw [hsame]
  asserted ht := (congrArg Core.asserted h).symm.trans ht
  controller := hc
  answer := ha

/-- A change of none of this, nor of the list controller. -/
theorem reach_quiet {s t : State} (hlc : t.lc = s.lc) (hcount : t.time.count = s.time.count) (h : core t = core s) :
    Reach s t :=
  .single <| .steady
    (.of_core h
      (fun hc => controllerLaw_congr hc (congrArg _ hlc) (congrArg _ hlc) (congrArg _ hlc) (congrArg _ hlc))
      (answer_of_same (congrArg _ hlc) (congrArg _ hlc)))
    (dueOrigin_congr hcount (congrArg _ hlc))

/-- Operations one after another. -/
theorem reach_foldl {α : Type} {f : State → α → State} (h : ∀ s a, Reach s (f s a)) (l : List α) (s : State) :
    Reach s (l.foldl f s) := by
  induction l generalizing s with
  | nil => exact .refl
  | cons a l ih => exact (h s a).trans (ih _)

theorem reach_if {p : Prop} [Decidable p] {s t u : State} (ht : Reach s t) (hu : Reach s u) :
    Reach s (if p then t else u) := by
  split
  · exact ht
  · exact hu

theorem reach_setCause (s : State) (c : Cause) : Reach s (s.setCause c) := reach_quiet rfl rfl rfl

/-! ## Withdrawals (R84 to R86) -/

/-- A record whose place is empty sends its release (R85). -/
theorem leaves_releaseAfter {s u : State} {k : Tag} (hposts : u.link.posts = s.link.posts) (hpulses : pulses u = pulses s)
    (hstaying : ∀ x ∈ waiting s ++ serving s, x = k ∨ x ∈ waiting u ++ serving u)
    (hwaiting : (waiting u).Sublist (waiting s)) (hserving : (serving u).Sublist (serving s))
    (hholders : ∀ l, holders u l = holders s l) : Leaves s (u.releaseAfter k.entry k.line) k := by
  have hdu : (u.releaseAfter k.entry k.line).du = u.du := State.releaseAfter_du u _ _
  have hlink : (u.releaseAfter k.entry k.line).link = u.link := State.releaseAfter_link u _ _
  have hw : waiting (u.releaseAfter k.entry k.line) = waiting u := by rw [waiting, waiting, hdu]
  have hs : serving (u.releaseAfter k.entry k.line) = serving u := by rw [serving, serving, hdu]
  refine ⟨(congrArg _ hlink).trans hposts, ?_, hw ▸ hs ▸ hstaying, hw ▸ hwaiting, hs ▸ hserving, fun l => ?_,
    fun l hl hmem => ?_⟩
  · rw [pulses, hlink]
    exact hpulses
  · rcases u.releaseAfter_cases k.entry k.line with ⟨-, heq⟩ | ⟨m, -, -, heq⟩
    · rw [heq, hholders]
    · rw [heq, ← hholders]
      simp only [holders, State.releaseHolder, State.setOut, Fin.getElem_fin, Vector.getElem_set]
      split
      · next hml =>
        simp only [hml, OutputLine.unhold]
        exact List.filter_sublist
      · exact .refl _
  · rw [hw, hs, ← hasRecord_iff_tag]
    rcases u.releaseAfter_cases k.entry k.line with ⟨hnone | hrecord, -⟩ | ⟨m, hm, -, heq⟩
    · simp [hl] at hnone
    · exact hrecord
    · obtain rfl : m = l := Option.some.inj (hm.symm.trans hl)
      rw [heq] at hmem
      simp [holders, State.releaseHolder, State.setOut] at hmem

theorem refill_stack (s : State) : s.refill.du.stack = s.du.stack := by
  have hrest := State.refill_rest s
  simp only [DispatchUnit.rest, Prod.mk.injEq] at hrest
  obtain ⟨hstack, -⟩ := hrest
  exact hstack

/-- A freed slot that a held record takes changes no tag (R84). -/
theorem waiting_refill (s : State) : waiting s.refill = waiting s := by
  rcases s.refill_cases with ⟨heq, -⟩ | ⟨r, rs, hheld, -, heq⟩
  · rw [heq]
  · rw [heq]
    simp [waiting, hheld]

theorem Leaves.refill {s t : State} {k : Tag} (h : Leaves s t k) : Leaves s t.refill k := by
  have hserving : Moves.serving t.refill = Moves.serving t := by
    rw [Moves.serving, refill_stack, Moves.serving]
  have hwaiting := waiting_refill t
  have hholders (l : OutLine) : Moves.holders t.refill l = Moves.holders t l := by
    rw [Moves.holders, State.refill_line, Moves.holders]
  refine ⟨by rw [State.refill_link, h.posts], ?_, hwaiting ▸ hserving ▸ h.staying, hwaiting ▸ h.waiting,
    hserving ▸ h.serving, fun l => hholders l ▸ h.holders l, fun l hl hmem => ?_⟩
  · rw [Moves.pulses, State.refill_link]
    exact h.pulses
  · rw [hwaiting, hserving]
    exact h.released l hl (hholders l ▸ hmem)

theorem releaseAfter_ins (s : State) (e : EntryNo) (l : Option OutLine) : (s.releaseAfter e l).line.ins = s.line.ins := by
  rcases s.releaseAfter_cases e l with ⟨-, heq⟩ | ⟨m, -, -, heq⟩ <;> rw [heq]
  rfl

theorem logMiss_links (s : State) (m : MissRecord) :
    waiting (s.logMiss m) = waiting s ∧ serving (s.logMiss m) = serving s ∧ pulses (s.logMiss m) = pulses s := by
  simp only [waiting, serving, pulses, State.logMiss_du, State.logMiss_link, and_self]

/-- A record erased from a list leaves the others (R84). -/
theorem mem_erase_or {r x : Record} {rs : List Record} (h : x ∈ rs) : x = r ∨ x ∈ rs.erase r := by
  by_cases hx : x = r
  · exact .inl hx
  · exact .inr ((List.mem_erase_of_ne hx).2 h)

theorem reach_withdrawHeld (reason : MissReason) (s : State) (r : Record) : Reach s (s.withdrawHeld reason r) := by
  let u : State := { s with du := { s.du with held := s.du.held.erase r } }
  obtain ⟨hw, hs, hp⟩ := logMiss_links u (r.miss reason)
  have hleaves : Leaves s (s.withdrawHeld reason r) (recordTag r) := by
    refine leaves_releaseAfter (s := s) (k := recordTag r) (u := u.logMiss (r.miss reason)) ?_ hp (fun x hx => ?_) ?_ ?_
      fun l => ?_
    · rw [State.logMiss_link]
    · rw [hw, hs]
      rcases List.mem_append.1 hx with hx | hx
      · obtain ⟨q, hq, rfl⟩ := mem_waiting.1 hx
        rcases List.mem_append.1 hq with hq | hq
        · exact .inr (List.mem_append_left _ (mem_waiting.2 ⟨q, List.mem_append_left _ hq, rfl⟩))
        · exact (mem_erase_or hq).imp (congrArg _) fun hq =>
            List.mem_append_left _ (mem_waiting.2 ⟨q, List.mem_append_right _ hq, rfl⟩)
      · exact .inr (List.mem_append_right _ hx)
    · rw [hw]
      exact ((List.erase_sublist).append_left _).map _
    · rw [hs]
      exact .refl _
    · rw [holders, State.logMiss_line]
      rfl
  refine .single (.dispatch ⟨State.withdrawHeld_lc .., by rw [State.withdrawHeld_time], fun n => ?_,
    by rw [State.withdrawHeld_win]⟩ (.leaves hleaves))
  rw [State.trigger, State.withdrawHeld, releaseAfter_ins, State.logMiss_line]
  rfl

theorem reach_withdrawEvent (reason : MissReason) (s : State) (r : Record) : Reach s (s.withdrawEvent reason r) := by
  let u : State := { s with du := { s.du with pool := s.du.pool.erase r } }
  obtain ⟨hw, hs, hp⟩ := logMiss_links u (r.miss reason)
  have hleaves : Leaves s (s.withdrawEvent reason r) (recordTag r) := by
    refine (leaves_releaseAfter (s := s) (k := recordTag r) (u := u.logMiss (r.miss reason)) ?_ hp (fun x hx => ?_) ?_ ?_
      fun l => ?_).refill
    · rw [State.logMiss_link]
    · rw [hw, hs]
      rcases List.mem_append.1 hx with hx | hx
      · obtain ⟨q, hq, rfl⟩ := mem_waiting.1 hx
        rcases List.mem_append.1 hq with hq | hq
        · exact (mem_erase_or hq).imp (congrArg _) fun hq =>
            List.mem_append_left _ (mem_waiting.2 ⟨q, List.mem_append_left _ hq, rfl⟩)
        · exact .inr (List.mem_append_left _ (mem_waiting.2 ⟨q, List.mem_append_right _ hq, rfl⟩))
      · exact .inr (List.mem_append_right _ hx)
    · rw [hw]
      exact ((List.erase_sublist).append_right _).map _
    · rw [hs]
      exact .refl _
    · rw [holders, State.logMiss_line]
      rfl
  refine .single (.dispatch ⟨State.withdrawEvent_lc .., by rw [State.withdrawEvent_time], fun n => ?_,
    by rw [State.withdrawEvent_win]⟩ (.leaves hleaves))
  rw [State.trigger, State.withdrawEvent, State.refill_line, releaseAfter_ins, State.logMiss_line]
  rfl

/-! ## The tick, and what is left of it (R87, R88, R114, R115) -/

theorem reach_withdrawStale (s : State) : Reach s s.withdrawStale := by
  have hheld : Reach s s.withdrawStaleHeld := reach_foldl (reach_withdrawHeld .stale) _ s
  have hclass (t : State) (c : ClassNo) : Reach t (t.withdrawStaleClass c) := reach_foldl (reach_withdrawEvent .stale) _ t
  have hall := hheld.trans (reach_foldl hclass allClasses s.withdrawStaleHeld)
  exact reach_if (hall.trans (reach_setCause _ .stale)) hall

theorem reach_finishStale (s : State) : Reach s s.finishStale := by
  have hmark : Reach s { s with du := { s.du with staleOwed := false } } := reach_quiet rfl rfl rfl
  exact reach_if (hmark.trans (reach_withdrawStale _)) .refl

/-- The check of R115 changes no tag. -/
theorem serving_marked (s : State) :
    (s.du.stack.map fun r => if r.overruns s.du.limits then { r with overrunFlag := true } else r).map serviceTag =
      serving s := by
  rw [serving, List.map_map]
  refine List.map_congr_left fun r _ => ?_
  simp only [Function.comp_apply]
  split <;> rfl

theorem reach_checkService (s : State) : Reach s s.checkService := by
  have hmark : Reach s { s with du := { s.du with
      stack := s.du.stack.map fun r => if r.overruns s.du.limits then { r with overrunFlag := true } else r } } :=
    Quiet.reach ⟨rfl, rfl, fun _ => rfl, rfl, rfl, rfl, serving_marked s, fun _ => .refl _, id⟩
  exact reach_if (hmark.trans (reach_setCause _ .serviceOverrun)) hmark

theorem reach_finishOverrun (s : State) : Reach s s.finishOverrun := by
  have hmark : Reach s { s with du := { s.du with overrunOwed := false } } := reach_quiet rfl rfl rfl
  exact reach_if (hmark.trans (reach_checkService _)) .refl

theorem reach_finishTick (s : State) : Reach s s.finishTick := (reach_finishStale s).trans (reach_finishOverrun _)

/-- A tick ages records and changes no tag. -/
theorem reach_takeDispatchTick (s : State) : Reach s s.takeDispatchTick := by
  refine (reach_finishTick s).trans (Quiet.reach ⟨rfl, rfl, fun _ => rfl, rfl, rfl, ?_, ?_, fun _ => .refl _, id⟩)
  · simp only [waiting, State.takeDispatchTick, DispatchUnit.increment, ← List.map_append, List.map_map]
    rfl
  · simp only [serving, State.takeDispatchTick, DispatchUnit.increment, List.map_map]
    rfl

/-! ## Requests (R80, R90, R91, R116, R123) -/

theorem takePost_rest (s : State) (p : PostReq) : (s.takePost p).time = s.time ∧ (s.takePost p).win = s.win ∧
    (s.takePost p).lc = s.lc := ⟨by simp, by simp, by simp⟩

/-- Output actions and records leave the input lines. -/
theorem takePost_ins (s : State) (p : PostReq) : (s.takePost p).line.ins = s.line.ins := by
  unfold State.takePost
  split
  · rw [State.postCase_line]
    exact performAll_ins s _
  · rw [State.postCase_line]

theorem reach_takeNextPost (s : State) : Reach s s.takeNextPost := by
  cases hposts : s.link.posts with
  | nil =>
    have : s.takeNextPost = s := by simp only [State.takeNextPost, hposts]
    rw [this]
  | cons p ps =>
    rw [takeNextPost_cons hposts]
    obtain ⟨htime, hwin, hlc⟩ := takePost_rest (withPosts s.finishTick ps) p
    refine (reach_finishTick s).tail (.dispatch ⟨hlc, congrArg _ htime, fun n => ?_, congrArg _ hwin⟩ (.post ?_))
    · rw [State.trigger, takePost_ins]
      rfl
    · rw [State.finishTick_link, hposts]

theorem reach_takeAllPosts (s : State) : Reach s s.takeAllPosts := by
  generalize hposts : s.link.posts = ps
  induction ps generalizing s with
  | nil =>
    have : s.takeAllPosts = s.finishTick := by
      simp only [State.takeAllPosts, State.finishTick_link, hposts, List.foldl_nil]
      rw [← hposts, ← State.finishTick_link]
    rw [this]
    exact reach_finishTick s
  | cons p ps ih =>
    rw [takeAllPosts_cons hposts]
    refine (reach_takeNextPost s).trans (ih _ ?_)
    rw [takeNextPost_cons hposts, takePost_posts]
    rfl

/-- No post request is under way when all have been taken. -/
theorem takeAllPosts_posts (s : State) : s.takeAllPosts.link.posts = [] :=
  foldl_frame State.takePost (fun t : State => t.link.posts) takePost_posts _ _

theorem reach_takeCancel (s : State) (e : EntryNo) (withdraw : Bool) : Reach s (s.takeCancel e withdraw) := by
  have hheld := reach_foldl (reach_withdrawHeld .withdrawn) (s.du.held.filter fun r => r.entry == e) s
  exact reach_if (hheld.trans (reach_foldl (reach_withdrawEvent .withdrawn) _ _)) hheld

theorem reach_takeClear (s : State) (c : ClassNo) : Reach s (s.takeClear c) :=
  (reach_foldl (reach_withdrawHeld .withdrawn) _ s).trans (reach_foldl (reach_withdrawEvent .withdrawn) _ _)

theorem reach_takeLimit (s : State) (c : ClassNo) (limit : Half) : Reach s (s.takeLimit c limit) :=
  (reach_finishTick s).trans (reach_quiet rfl rfl rfl)

theorem untouched_pulseTaken (s : State) (l : OutLine) (e : EntryNo) (as : List ActionReq) :
    Untouched s (pulseTaken s l e as) := by
  have frame {α : Type} (view : State → α) (hpost : ∀ t p, view (State.postCase t p) = view t)
      (hperform : ∀ t, view (State.perform t (.pulse l e)) = view t) :
      view (pulseTaken s l e as) = view (withRequests s (splitPost s.link.posts).2 as) :=
    (hperform _).trans (foldl_frame State.postCase view hpost _ _)
  exact ⟨frame (·.lc) State.postCase_lc fun _ => rfl, frame (·.time.count) (by simp) fun _ => rfl,
    fun n => frame (·.trigger n) (fun t p => by simp only [State.trigger, State.postCase_line]) fun _ => rfl,
    frame (·.win.resetAsserted) (by simp) fun _ => rfl⟩

theorem reach_takeNextAction (s : State) : Reach s s.takeNextAction := by
  cases hactions : s.link.actions with
  | nil => rw [OutputLines.takeNextAction_nil hactions]
  | cons a as =>
    cases hpulse : a.pulse? with
    | none =>
      rw [OutputLines.takeNextAction_base hactions hpulse]
      refine Quiet.reach ⟨?_, ?_, fun n => ?_, ?_, ?_, ?_, ?_, fun l => ?_, ?_⟩
      · rw [State.perform_lc]
      · rw [State.perform_time]
      · rw [State.trigger, perform_ins]
        rfl
      · rw [State.perform_link]
      · rw [pulses, State.perform_link, pulses, hactions, List.filterMap_cons, hpulse]
      · rw [waiting, State.perform_du]
        rfl
      · rw [serving, State.perform_du]
        rfl
      · rw [holders_perform_base hpulse]
        exact .refl _
      · rw [State.perform_win]
        exact id
    | some q =>
      cases a with
      | set l | clear l | toggle l => cases hpulse
      | pulse l e =>
        have htake : s.takeNextAction = pulseTaken s.finishTick l e as := by
          simp only [State.takeNextAction, hactions]
          rfl
        rw [htake]
        refine (reach_finishTick s).tail (.dispatch (untouched_pulseTaken _ l e as) (.pulse ?_))
        rw [State.finishTick_link, hactions]

/-! ## Acknowledge and DONE (R84, R85, R103, R110) -/

theorem mem_of_nextEvent {s : State} {r : Record} (h : s.nextEvent = some r) : r ∈ s.du.pool := by
  obtain ⟨c, -, hr⟩ := Option.bind_eq_some_iff.1 h
  exact List.mem_of_mem_filter (List.mem_of_mem_head? hr)

theorem reach_serve {s : State} {r : Record} (h : s.nextEvent = some r) : Reach s (s.serve r) := by
  let u : State := { s with du := { s.du with
    pool := s.du.pool.erase r
    stack := r.service s.time.count :: s.du.stack } }
  have hwaiting : waiting (s.serve r) = (s.du.pool.erase r ++ s.du.held).map recordTag := waiting_refill u
  have hserving : serving (s.serve r) = recordTag r :: serving s := by
    rw [serving, State.serve, refill_stack]
    rfl
  refine .single (.dispatch ⟨State.refill_lc u, congrArg _ (State.refill_time u), fun n => ?_,
    congrArg _ (State.refill_win u)⟩ (.serves (k := recordTag r) ⟨congrArg _ (State.refill_link u), ?_,
      mem_waiting.2 ⟨r, List.mem_append_left _ (mem_of_nextEvent h), rfl⟩, fun x hx => ?_, ?_, hserving,
      fun x xs hx => ?_, fun l => ?_⟩))
  · rw [State.trigger, State.serve, State.refill_line]
    rfl
  · rw [pulses, State.serve, State.refill_link]
    rfl
  · obtain ⟨q, hq, rfl⟩ := mem_waiting.1 hx
    rw [hwaiting]
    rcases List.mem_append.1 hq with hq | hq
    · exact (mem_erase_or hq).imp (congrArg _) fun hq => List.mem_map_of_mem (List.mem_append_left _ hq)
    · exact .inr (List.mem_map_of_mem (List.mem_append_right _ hq))
  · rw [hwaiting]
    exact ((List.erase_sublist).append_right _).map _
  · have helig := nextEvent_eligible h
    cases hstack : s.du.stack with
    | nil => simp [serving, hstack] at hx
    | cons top rest =>
      simp only [serving, hstack, List.map_cons, List.cons.injEq] at hx
      simp only [State.eligible, hstack, Bool.and_eq_true, decide_eq_true_eq] at helig
      obtain ⟨htop, -⟩ := hx
      obtain ⟨-, hbelow⟩ := helig
      exact htop ▸ hbelow
  · rw [holders, State.serve, State.refill_line]
    rfl

theorem reach_ackEffect (s : State) : Reach s s.ackEffect := by
  unfold State.ackEffect
  split
  · exact .refl
  · split
    · exact .refl
    · next r hr => exact reach_serve hr

theorem reach_readVector (s : State) : Reach s s.readVector :=
  ((reach_finishTick s).trans (reach_ackEffect _)).trans (reach_quiet rfl rfl rfl)

theorem reach_pop {s : State} {top : ServiceRecord} {rest : List ServiceRecord} (h : s.du.stack = top :: rest) :
    Reach s (({ s with du := { s.du with stack := rest } } : State).releaseAfter top.entry top.pulseLine) := by
  refine .single (.dispatch ⟨State.releaseAfter_lc .., by rw [State.releaseAfter_time], fun n => ?_,
    by rw [State.releaseAfter_win]⟩ (.leaves (leaves_releaseAfter (k := serviceTag top) rfl rfl (fun x hx => ?_) (.refl _) ?_
      fun _ => rfl)))
  · rw [State.trigger, releaseAfter_ins]
    rfl
  · simp only [serving, h, List.map_cons] at hx
    rcases List.mem_append.1 hx with hx | hx
    · exact .inr (List.mem_append_left _ hx)
    · exact (List.mem_cons.1 hx).imp_right (List.mem_append_right _)
  · simp only [serving, h, List.map_cons]
    exact List.sublist_cons_self _ _

theorem reach_writeDone (s : State) (b : Byte) : Reach s (s.writeDone b) := by
  refine (reach_finishTick s).trans ?_
  unfold State.writeDone
  dsimp only
  split
  · exact reach_setCause _ _
  · next top rest hstack => exact reach_if (reach_pop hstack) (reach_setCause _ _)

end Sys2Proof.Machine.Moves

namespace Sys2Proof.Machine.Moves

open ListOperations EventPool Service RegisterWindow Arms EntryOperations

/-! # What the work of the list controller is made of -/

theorem Reach.dueLaw {s t : State} (h : Reach s t) (hd : DueLaw s) : DueLaw t := by
  induction h with
  | refl => exact hd
  | tail _ hm ih => exact hm.dueLaw ih

theorem Reach.controllerLaw {s t : State} (h : Reach s t) (hc : ControllerLaw s) : ControllerLaw t := by
  induction h with
  | refl => exact hc
  | tail _ hm ih => exact hm.controllerLaw ih

/-! ## The work in hand (R59, R60, R66) -/

theorem not_adjusting {s : State} (h : ∀ d, s.lc.work ≠ .operation (.adjusting d)) : s.adjusting = false := by
  rw [Bool.eq_false_iff, ne_eq, adjusting_iff]
  exact fun ⟨d, hd⟩ => h d hd

theorem adjusting_congr {s t : State} (h : t.lc.work = s.lc.work) : t.adjusting = s.adjusting := by
  simp only [State.adjusting, h]

/-- Outside the walk of SET TIME the origin is the count. -/
theorem dueOrigin_eq {s t : State} (hcount : t.time.count = s.time.count) (hs : s.adjusting = false)
    (ht : t.adjusting = false) : t.dueOrigin = s.dueOrigin := by
  rw [dueOrigin_of_not_adjusting hs, dueOrigin_of_not_adjusting ht, hcount]

theorem work_of_carries {s : State} {n : OpName} {op : HostOp} {ph : OpPhase} (h : s.Carries n op ph) :
    s.lc.work = .operation ph := by
  obtain ⟨-, -, hwork⟩ := h
  exact hwork

/-- An operation in progress other than SET TIME is not in its walk. -/
theorem not_adjusting_of_carries {s : State} (hc : ControllerLaw s) {n : OpName} {op : HostOp} {ph : OpPhase}
    (h : s.Carries n op ph) (hn : n ≠ .setTime) : s.adjusting = false := by
  obtain ⟨hslot, hcode, hwork⟩ := h
  refine not_adjusting fun d hd => hn ?_
  have hfits : OpName.ofCode op.code = some .setTime := hc.phase_fits _ op hd hslot
  exact Option.some.inj (hcode.symm.trans hfits)

/-- The arbiter has chosen (R60). -/
theorem choose_ne_phase (c : ListController) {ph : OpPhase} (h : ph ≠ .started) : c.choose ≠ .operation ph := by
  rcases c.choose_cases with ⟨-, hw⟩ | ⟨-, n, -, hw⟩ | ⟨-, -, -, hw⟩ | ⟨-, -, -, hw⟩ <;> simp [hw, h.symm]

theorem not_adjusting_of_choice {s : State} (h : s.lc.work = s.lc.choose) : s.adjusting = false :=
  not_adjusting fun d hd => choose_ne_phase s.lc (ph := .adjusting d) nofun (h.symm.trans hd)

theorem reach_complete {s : State} (h : s.adjusting = false) (r : Result) : Reach s (s.complete r) := by
  rw [complete_eq]
  exact .single <| .steady
    (.of_core rfl (fun _ => controllerLaw_of_choice rfl) (fun p hp => absurd hp (choose_ne_operation rfl _)))
    (dueOrigin_eq rfl h (not_adjusting_of_choice rfl))

theorem reach_completeRead {s : State} (h : s.adjusting = false) (i : Image) : Reach s (s.completeRead i) := by
  have hstage : Reach s { s with win := { s.win with staging := i } } := reach_quiet rfl rfl rfl
  have hadj : ({ s with win := { s.win with staging := i } } : State).adjusting = false := h
  exact hstage.trans (reach_complete hadj .complete)

/-- The end of a piece of work, at which the arbiter chooses. -/
theorem reach_settle (s : State) : Reach s s.settle := by
  cases hend : s.atEnd with
  | false => rw [State.settle_not hend]
  | true =>
    rw [State.settle_atEnd hend]
    have hadj : s.adjusting = false := not_adjusting fun d hd => by simp [State.atEnd, hd] at hend
    exact .single <| .steady
      (.of_core rfl (fun _ => controllerLaw_of_choice rfl) (fun p hp => absurd hp (choose_ne_phase s.lc nofun)))
      (dueOrigin_eq rfl hadj (not_adjusting_of_choice rfl))

/-- Something has become ready, and a controller at rest takes it (R59). -/
structure Readied (s t : State) : Prop where
  work : t.lc.work = if s.lc.work = .rest then t.lc.choose else s.lc.work
  owed : s.lc.owed = true → t.lc.owed = true
  latches : ∀ n : InLine, (s.lc.latches[n]).isSome → (t.lc.latches[n]).isSome
  slot : s.lc.slot.isSome → t.lc.slot = s.lc.slot

/-- A controller at rest chooses, or the work in hand stays. -/
theorem Readied.cases {s t : State} (h : Readied s t) :
    s.lc.work = .rest ∧ t.lc.work = t.lc.choose ∨ s.lc.work ≠ .rest ∧ t.lc.work = s.lc.work := by
  by_cases hrest : s.lc.work = .rest
  · exact .inl ⟨hrest, by rw [h.work, if_pos hrest]⟩
  · exact .inr ⟨hrest, by rw [h.work, if_neg hrest]⟩

theorem Readied.controllerLaw {s t : State} (h : Readied s t) (hc : ControllerLaw s) : ControllerLaw t := by
  rcases h.cases with ⟨-, hchoice⟩ | ⟨hbusy, hsame⟩
  · exact controllerLaw_of_choice hchoice
  · refine ⟨fun hw => absurd (hsame.symm.trans hw) hbusy, fun hw => h.owed (hc.run_is_owed (hsame.symm.trans hw)),
      fun n hw => h.latches n (hc.latch_is_full n (hsame.symm.trans hw)), fun ph hw => ?_, fun ph op hw hop => ?_⟩
    all_goals
      have hslot := hc.operation_in_slot ph (hsame.symm.trans hw)
    · rw [h.slot hslot]
      exact hslot
    · exact hc.phase_fits ph op (hsame.symm.trans hw) ((h.slot hslot).symm.trans hop)

theorem Readied.answer {s t : State} (h : Readied s t) (hc : ControllerLaw s) {p : Presence}
    (hp : t.lc.work = .operation (.presence p)) :
    s.lc.work = .operation (.presence p) ∧ s.lc.slot = t.lc.slot := by
  rcases h.cases with ⟨-, hchoice⟩ | ⟨-, hsame⟩
  · exact absurd (hchoice.symm.trans hp) (choose_ne_phase _ nofun)
  · have hw := hsame.symm.trans hp
    exact ⟨hw, (h.slot (hc.operation_in_slot _ hw)).symm⟩

theorem Readied.origin {s t : State} (h : Readied s t) (hcount : t.time.count = s.time.count) :
    t.dueOrigin = s.dueOrigin := by
  rcases h.cases with ⟨hrest, hchoice⟩ | ⟨-, hsame⟩
  · exact dueOrigin_eq hcount (not_adjusting fun d hd => nomatch hrest.symm.trans hd) (not_adjusting_of_choice hchoice)
  · exact dueOrigin_congr hcount hsame

theorem Readied.reach {s t : State} (h : Readied s t) (hc : ControllerLaw s) (hcount : t.time.count = s.time.count)
    (hcore : core t = core s) : Reach s t :=
  .single <| .steady (.of_core hcore h.controllerLaw fun _ hp => .inl (h.answer hc hp)) (h.origin hcount)

theorem reach_takeListTick {s : State} (hc : ControllerLaw s) : Reach s s.takeListTick := by
  rw [State.takeListTick, wake_eq_setWork]
  have hready : Readied s (({ s.oweRun with link := { s.link with ticksToList := s.link.ticksToList - 1 } } : State).setWork
    (if s.lc.work = .rest then s.oweRun.lc.choose else s.lc.work)) := ⟨rfl, fun _ => rfl, fun _ => id, fun _ => rfl⟩
  exact hready.reach hc rfl rfl

theorem reach_writeOperation {s : State} (hc : ControllerLaw s) (code : Byte) : Reach s (s.writeOperation code) := by
  cases hslot : s.lc.slot with
  | some op =>
    simp only [State.writeOperation, hslot]
    exact reach_quiet rfl rfl rfl
  | none =>
    rw [writeOperation_of_empty code hslot]
    have hready : Readied s { s with lc := { filledSlot s code with
        work := if s.lc.work = .rest then (filledSlot s code).choose else s.lc.work } } :=
      ⟨rfl, id, fun _ => id, fun h => by simp [hslot] at h⟩
    exact hready.reach hc rfl rfl

/-- A full latch stays full, and one more becomes so (R142). -/
theorem reach_fillLatch {s : State} (hc : ControllerLaw s) (n : InLine) (t : Word) : Reach s (s.fillLatch n t).wake := by
  rw [InputLines.fillLatch_eq, wake_eq_setWork]
  have hready : Readied s ((s.setLatch n (some ((s.lc.latches[n]).getD t))).setWork
      (if s.lc.work = .rest then (s.setLatch n (some ((s.lc.latches[n]).getD t))).lc.choose else s.lc.work)) :=
    ⟨rfl, id, fun m hm => by
      simp only [State.setWork, State.setLatch, Fin.getElem_fin, Vector.getElem_set]
      split
      · rfl
      · exact hm, fun _ => rfl⟩
  exact hready.reach hc rfl rfl

/-! ## Input lines (R134 to R139) -/

theorem trigger_setIn (s : State) (n m : InLine) {i : InputLine} (h : i.cfg = (s.line.ins[n]).cfg) :
    (s.setIn n i).trigger m = s.trigger m := by
  simp only [State.setIn, State.trigger, Fin.getElem_fin, Vector.getElem_set]
  split
  · next heq => simp only [h, Fin.getElem_fin, heq]
  · rfl

theorem reach_setIn (s : State) (n : InLine) {i : InputLine} (h : i.cfg = (s.line.ins[n]).cfg) : Reach s (s.setIn n i) :=
  Quiet.reach ⟨rfl, rfl, fun m => trigger_setIn s n m h, rfl, rfl, rfl, rfl, fun _ => .refl _, id⟩

theorem reach_capture (s : State) (r : CaptureRecord) : Reach s (s.capture r) := by
  rw [InputLines.capture_eq]
  exact reach_quiet rfl rfl rfl

theorem reach_recognize {s : State} (hc : ControllerLaw s) (n : InLine) (level : Bool) : Reach s (s.recognize n level) := by
  have hset : Reach s (s.setIn n { s.line.ins[n] with counter := (s.line.ins[n]).cfg.holdOff }) := reach_setIn s n rfl
  have fill {t : State} (ht : Reach s t) : Reach s (if (s.line.ins[n]).cfg.trigger.isSome then
      (t.fillLatch n s.time.count).wake else t) := by
    split
    · exact ht.trans (reach_fillLatch (ht.controllerLaw hc) n _)
    · exact ht
  unfold State.recognize
  refine fill ?_
  split
  · exact hset.trans (reach_capture _ _)
  · exact hset

theorem reach_takeChange {s : State} (hc : ControllerLaw s) (n : InLine) (level : Bool) :
    Reach s (s.takeChange n level) := by
  have hset : Reach s (s.setIn n { s.line.ins[n] with lastLevel := level }) := reach_setIn s n rfl
  unfold State.takeChange
  dsimp only
  split
  · exact .refl
  · exact reach_if (hset.trans (reach_recognize (hset.controllerLaw hc) n level)) hset

/-! ## Arms and removals (R36 to R40, R53, R56, R69) -/

/-- A fresh arm starts a limited entry with its whole limit (R39). -/
theorem reach_freshArm {s : State} {e : EntryNo} (hdef : (s.entry e).timing ≠ .free) (hadj : s.adjusting = false)
    (due : Word) : Reach s (s.freshArm e due) := by
  rw [freshArm_eq]
  refine .single (.arm hdef hadj fun hperiod hlimit => ?_)
  have hpos : (s.entry e).defn.repeatLimit.toNat ≠ 0 := fun h => hlimit (BitVec.eq_of_toNat_eq h)
  rw [Definition.firstRemaining, if_pos hperiod]
  exact ⟨Nat.one_le_iff_ne_zero.2 hpos, .inl le_rfl⟩

theorem reach_policyArm {s : State} (hadj : s.adjusting = false) (e : EntryNo) (origin : Word) :
    Reach s (s.policyArm e origin) := by
  unfold State.policyArm
  split
  · next htakes =>
    refine reach_freshArm (fun hfree => ?_) hadj _
    rcases (takesArm_iff _).1 htakes with hidle | ⟨harmed, -⟩
    · exact nomatch hfree.symm.trans hidle
    · exact nomatch hfree.symm.trans harmed
  · exact .refl

theorem reach_disarm (s : State) (e : EntryNo) : Reach s (s.disarm e) := by
  unfold State.disarm
  split
  · next harmed => exact .single (.stop harmed)
  · exact .refl

/-- Removals of armed entries one after another (R69). -/
theorem reach_foldl_removeDue {l : List EntryNo} (hl : l.Nodup) {s : State} (harmed : ∀ e ∈ l, (s.entry e).timing = .armed) :
    Reach s (l.foldl State.removeDue s) := by
  induction l generalizing s with
  | nil => exact .refl
  | cons e l ih =>
    obtain ⟨he, hl⟩ := List.nodup_cons.1 hl
    refine Relation.ReflTransGen.head (.stop (harmed e List.mem_cons_self)) (ih hl fun f hf => ?_)
    rw [entry_stopped, if_neg (ne_of_mem_of_not_mem hf he)]
    exact harmed f (List.mem_cons_of_mem _ hf)

theorem reach_clearWalk {s : State} (hd : DueLaw s) (c : ClassNo) : Reach s (s.clearWalk c) :=
  reach_foldl_removeDue (hd.once.filter _) fun _ he => (hd.exactly_armed _).1 (List.mem_of_mem_filter he)

/-! ## Expiries (R47 to R53) -/

theorem reach_expire {s : State} {e : EntryNo} (harmed : (s.entry e).timing = .armed)
    (hwork : ∀ ph, s.lc.work ≠ .operation ph) : Reach s (s.expire e) := by
  have hadj : s.adjusting = false := not_adjusting fun d => hwork _
  have hissue : Reach s (issued s e) := .single (.issue (by simp [harmed]) hwork)
  have hstop : Reach s (stopped (issued s e) e ((s.entry e).occurrence + 1)) := hissue.tail (.stop harmed)
  cases hcont : (s.entry e).defn.continues (s.entry e).remaining with
  | true =>
    have heq : s.expire e = armWith (issued s e) e (s.dueOf e + (s.entry e).defn.period.getD 0)
        ((s.entry e).occurrence + 1) ((s.entry e).defn.nextRemaining (s.entry e).remaining) := by
      have hothers : othersDue (issued s e) e = s.lc.dueList.erase e := if_pos harmed
      rw [expire_continues hcont, armWith, hothers]
      rfl
    rw [heq]
    refine hissue.tail (.arm (by simpa using harmed ▸ nofun) hadj fun _ hlimit => ?_)
    obtain ⟨-, hmore⟩ := (continues_iff _ _).1 hcont
    have htwo : 2 ≤ (s.entry e).remaining.toNat := hmore.resolve_left hlimit
    have hnext : ((s.entry e).defn.nextRemaining (s.entry e).remaining).toNat = (s.entry e).remaining.toNat - 1 := by
      have hne : (s.entry e).defn.repeatLimit ≠ 0 := hlimit
      rw [Definition.nextRemaining, if_neg hne]
      bv_omega
    rw [hnext]
    exact ⟨by omega, .inr ⟨harmed, Nat.sub_le _ _⟩⟩
  | false =>
    cases hfollow : (s.entry e).defn.followOn with
    | none => rwa [expire_ends hcont hfollow]
    | some f =>
      rw [expire_follows hcont hfollow]
      have hadj' : (stopped (issued s e) e ((s.entry e).occurrence + 1)).adjusting = false := hadj
      exact hstop.trans (reach_policyArm hadj' f _)

theorem reach_runExpiry {s : State} (hd : DueLaw s) (hwork : ∀ ph, s.lc.work ≠ .operation ph) (limit : Word) :
    Reach s (s.runExpiry limit) := by
  rcases s.runExpiry_cases limit with ⟨e, hhead, heq⟩ | ⟨-, heq⟩ <;> rw [heq]
  obtain ⟨l, hlist, -⟩ := (s.dueHead_eq_some limit e).1 hhead
  exact reach_expire ((hd.exactly_armed e).1 (by simp [hlist])) hwork

/-- An arm reads and writes no work in hand. -/
theorem policyArm_setWork (s : State) (w : Work) (e : EntryNo) (origin : Word) :
    (s.setWork w).policyArm e origin = (s.policyArm e origin).setWork w := by
  have hentry : (s.setWork w).entry e = s.entry e := rfl
  simp only [State.policyArm, hentry]
  split
  · rw [freshArm_eq, freshArm_eq]
    rfl
  · rfl

theorem expire_setWork (s : State) (w : Work) (e : EntryNo) : (s.setWork w).expire e = (s.expire e).setWork w := by
  cases hcont : (s.entry e).defn.continues (s.entry e).remaining with
  | true =>
    rw [expire_continues hcont, expire_continues (s := s.setWork w) hcont]
    rfl
  | false =>
    cases hfollow : (s.entry e).defn.followOn with
    | none =>
      rw [expire_ends hcont hfollow, expire_ends (s := s.setWork w) hcont hfollow]
      rfl
    | some f =>
      rw [expire_follows hcont hfollow, expire_follows (s := s.setWork w) hcont hfollow, ← policyArm_setWork]
      rfl

theorem runExpiry_setWork (s : State) (w : Work) (limit : Word) :
    (s.setWork w).runExpiry limit = (s.runExpiry limit).setWork w := by
  have hhead : (s.setWork w).dueHead limit = s.dueHead limit := rfl
  simp only [State.runExpiry, hhead]
  split
  · exact expire_setWork s w _
  · rfl

/-- Work that is under way asks for nothing that waits. -/
theorem controllerLaw_under_way {t : State} (h : t.lc.work = .latchServed ∨ ∃ l, t.lc.work = .run (some l)) :
    ControllerLaw t := by
  rcases h with h | ⟨l, h⟩ <;>
    exact ⟨fun hw => by simp [h] at hw, fun hw => by simp [h] at hw, fun _ hw => by simp [h] at hw,
      fun _ hw => by simp [h] at hw, fun _ _ hw => by simp [h] at hw⟩

theorem reach_startRun {s : State} (hd : DueLaw s) (hwork : s.lc.work = .run none) : Reach s s.startRun := by
  rw [State.startRun, ← runExpiry_setWork]
  have hstart : Reach s (({ s with lc := { s.lc with owed := false } } : State).setWork (.run (some s.time.count))) :=
    .single <| .steady
      (.of_core rfl (fun _ => controllerLaw_under_way (.inr ⟨_, rfl⟩)) nofun)
      (dueOrigin_eq rfl (not_adjusting fun _ hd => nomatch hwork.symm.trans hd) rfl)
  exact hstart.trans (reach_runExpiry (hstart.dueLaw hd) nofun s.time.count)

/-! ## Latch service (R56, R57) -/

theorem reach_serveLatch {s : State} {n : InLine} (hwork : s.lc.work = .latch n) :
    Reach s ((s.serveLatch n).setWork .latchServed) := by
  have hempty : Reach s ((s.setLatch n none).setWork .latchServed) :=
    .single <| .steady
      (.of_core rfl (fun _ => controllerLaw_under_way (.inl rfl)) nofun)
      (dueOrigin_eq rfl (not_adjusting fun _ hd => nomatch hwork.symm.trans hd) rfl)
  cases hlatch : s.lc.latches[n] with
  | none =>
    rw [serveLatch_absent (.inl hlatch)]
    exact hempty
  | some t =>
    cases htrigger : s.trigger n with
    | none =>
      rw [serveLatch_absent (.inr htrigger)]
      exact hempty
    | some x =>
      have harm : Reach s (((s.setLatch n none).policyArm x t).setWork .latchServed) := by
        rw [← policyArm_setWork]
        exact hempty.trans (reach_policyArm rfl x t)
      rw [serveLatch_full hlatch htrigger, State.triggerArm]
      split
      · exact harm.tail <| .steady
          (.of_core rfl (fun _ => controllerLaw_under_way (.inl rfl)) nofun)
          (dueOrigin_congr rfl rfl)
      · exact harm

end Sys2Proof.Machine.Moves

namespace Sys2Proof.Machine.Moves

open ListOperations EventPool Service RegisterWindow Arms EntryOperations

/-! # What the host operations are made of -/

section
variable {s : State} {n : OpName} {op : HostOp} {ph : OpPhase}

/-- All is carried out but the completion. -/
theorem reach_carriedOut (hadj : s.adjusting = false) (hwork : s.lc.work = .operation ph) (r : Result) :
    Reach s (s.setWork (.operation (.carriedOut r))) :=
  .single <| .steady
    (.of_core rfl
      (fun hc => ⟨nofun, nofun, nofun, fun _ _ => hc.operation_in_slot ph hwork, fun _ _ hw _ => by
        obtain rfl := Work.operation.inj hw
        trivial⟩)
      nofun)
    (dueOrigin_eq rfl hadj rfl)

theorem disarm_work (s : State) (e : EntryNo) : (s.disarm e).lc.work = s.lc.work := by
  unfold State.disarm
  split <;> rfl

theorem armIf_work (s : State) (r : Result) (op : HostOp) (t : EntryNo → Word) :
    (s.armIf r op t).lc.work = s.lc.work := by
  unfold State.armIf
  split
  · rw [freshArm_eq]
    rfl
  · rfl

theorem carryCancel_work (s : State) (op : HostOp) (e : EntryNo) : (s.carryCancel op e).1.lc.work = s.lc.work := by
  simp only [State.carryCancel, State.sendCancel, State.takeCancel_lc, State.takeAllPosts_lc, disarm_work]

theorem carryClear_work (s : State) (c : ClassNo) : (s.carryClear c).lc.work = s.lc.work := by
  simp only [State.carryClear, State.takeClear_lc, State.takeAllPosts_lc, State.clearWalk, foldl_removeDue]
  rfl

theorem afterQuery_lc (s : State) (ph : OpPhase) : (s.afterQuery ph).lc = s.lc := by
  cases ph with
  | presence p => rfl
  | _ => exact State.takeAllPosts_lc s

theorem reach_afterQuery (s : State) (ph : OpPhase) : Reach s (s.afterQuery ph) := by
  cases ph with
  | presence p => exact .refl
  | _ => exact reach_takeAllPosts s

/-- An answer that names no events is of this moment, or the one at hand (R23, R28). -/
theorem untraced_of_answer (h : s.Carries n op ph) {e : EntryNo} (he : op.entry? = some e)
    (hany : ((s.afterQuery ph).answer ph e).any = false) : Untraced (s.afterQuery ph) e := by
  obtain ⟨hslot, -, hwork⟩ := h
  cases ph with
  | presence p => exact .inr ⟨p, op, hwork, hslot, he, hany⟩
  | _ => exact .inl ⟨takeAllPosts_posts s, hany⟩

/-! ## DEFINE, RELEASE and the reads (R25 to R33) -/

theorem reach_doDefine (hc : ControllerLaw s) (h : s.Carries .define op ph) : Reach s (s.doDefine op ph) := by
  have hadj := not_adjusting_of_carries hc h (by decide)
  have hquery := reach_afterQuery s ph
  have hlc := afterQuery_lc s ph
  have hadj' : (s.afterQuery ph).adjusting = false := (adjusting_congr (congrArg _ hlc)).trans hadj
  unfold State.doDefine
  split
  · exact reach_complete hadj _
  · next e he =>
    split
    · exact reach_complete hadj _
    · next harmed =>
      dsimp only
      split
      · exact hquery.trans (reach_complete hadj' _)
      · next hany =>
        split
        · next hcheck =>
          obtain ⟨hform, hdelays, hlink⟩ := checkDefine_eq_complete.1 hcheck
          have hwrite : Rewrite (s.afterQuery ph) e (.defined (decodeDefinition op.image)) :=
            ⟨by rwa [State.entry, hlc], untraced_of_answer h he (by simpa using hany),
              .inl ⟨_, rfl, legal_decode ((formOk_iff _).1 hform) hdelays, fun f hf => ?_⟩⟩
          · exact (hquery.tail (.rewrite hwrite)).trans (reach_complete (s := State.setEntry _ e _) hadj' _)
          · by_contra hbad
            exact hlink ⟨f, hf, by simpa using hbad⟩
        · exact hquery.trans (reach_complete hadj' _)

theorem reach_doRelease (hc : ControllerLaw s) (h : s.Carries .release op ph) : Reach s (s.doRelease op ph) := by
  have hadj := not_adjusting_of_carries hc h (by decide)
  have hquery := reach_afterQuery s ph
  have hlc := afterQuery_lc s ph
  have hadj' : (s.afterQuery ph).adjusting = false := (adjusting_congr (congrArg _ hlc)).trans hadj
  unfold State.doRelease
  split
  · exact reach_complete hadj _
  · next e he =>
    split
    · exact reach_complete hadj _
    · exact reach_complete hadj _
    · next hidle =>
      dsimp only
      split
      · exact hquery.trans (reach_complete hadj' _)
      · next hany =>
        split
        · exact hquery.trans (reach_complete hadj' _)
        · next href =>
          have hwrite : Rewrite (s.afterQuery ph) e .free :=
            ⟨fun harmed => ?_, untraced_of_answer h he (by simpa using hany),
              .inr ⟨rfl, by simpa using href⟩⟩
          · exact (hquery.tail (.rewrite hwrite)).trans (reach_complete (s := State.setEntry _ e _) hadj' _)
          · rw [State.entry, hlc] at harmed
            exact nomatch hidle.symm.trans harmed

theorem reach_doReadDefinition (hc : ControllerLaw s) (h : s.Carries .readDefinition op ph) :
    Reach s (s.doReadDefinition op) := by
  have hadj := not_adjusting_of_carries hc h (by decide)
  unfold State.doReadDefinition
  split
  · exact reach_complete hadj _
  · exact reach_if (reach_complete hadj _) (reach_completeRead hadj _)

theorem reach_doReadState (hc : ControllerLaw s) (h : s.Carries .readState op ph) : Reach s (s.doReadState op ph) := by
  have hadj := not_adjusting_of_carries hc h (by decide)
  unfold State.doReadState
  split
  · exact reach_complete hadj _
  · refine (reach_afterQuery s ph).trans (reach_completeRead ?_ _)
    rw [adjusting_congr (congrArg _ (afterQuery_lc s ph)), hadj]

/-- The dispatch unit answers the operation that asks (R93). -/
theorem reach_presenceQuery {e : EntryNo} (h : s.queryTarget = some e) :
    Reach s (s.takeAllPosts.setWork (.operation (.presence (s.takeAllPosts.presence e)))) := by
  obtain ⟨n, op, ⟨hslot, hcode, hwork⟩, hname, hasks⟩ := queryTarget_asks h
  have hlc := State.takeAllPosts_lc s
  have hslot' : s.takeAllPosts.lc.slot = some op := by rw [hlc, hslot]
  have hasks' : n = .define ∨ n = .release ∨ n = .readState := hasks.imp And.left (Or.imp_left And.left)
  have hadj : s.takeAllPosts.adjusting = false := not_adjusting fun d hd => by simp [hwork] at hd
  refine (reach_takeAllPosts s).tail <| .steady
    (.of_core rfl (fun _ => ⟨nofun, nofun, nofun, fun _ _ => ?_, fun ph x hw hx => ?_⟩)
      fun p hp => .inr ⟨takeAllPosts_posts s, fun x f hx hf => ?_⟩)
    (dueOrigin_eq rfl hadj rfl)
  · exact Option.isSome_of_eq_some hslot'
  · obtain rfl := Work.operation.inj hw
    obtain rfl : op = x := Option.some.inj (hslot'.symm.trans hx)
    simpa only [OpPhase.fits, hcode, Option.some.injEq] using hasks'
  · obtain rfl : op = x := Option.some.inj (hslot'.symm.trans hx)
    obtain rfl : e = f := Option.some.inj ((HostOp.entry?_some hname).symm.trans hf)
    exact (OpPhase.presence.inj (Work.operation.inj hp)).symm

/-! ## ARM, ARM AT, CANCEL and CLEAR CLASS (R40 to R44, R69, R70) -/

/-- An arm comes after the check that the entry is not FREE. -/
theorem reach_armIf {r : Result} (hadj : s.adjusting = false)
    (hdef : r = .complete → ∀ e, op.entry? = some e → (s.entry e).timing ≠ .free) (t : EntryNo → Word) :
    Reach s (s.armIf r op t) := by
  unfold State.armIf
  split
  · next he => exact reach_freshArm (hdef rfl _ he) hadj _
  · exact .refl

theorem checkDefined_complete (h : s.checkDefined op = .complete) {e : EntryNo} (he : op.entry? = some e) :
    (s.entry e).timing ≠ .free := fun hfree => by
  simp [State.checkDefined, he, hfree] at h

theorem checkArmAt_passes (h : s.checkArmAt op = .complete) : s.checkDefined op = .complete := by
  by_contra hne
  exact hne ((checkArmAt_refused rfl hne).symm.trans h)

theorem reach_doArm (hadj : s.adjusting = false) (hwork : s.lc.work = .operation ph) {r : Result}
    (hcheck : r = .complete → s.checkDefined op = .complete) (span : Span) (t : EntryNo → Word) :
    Reach s (s.doArm op ph span r t) := by
  have harm : Reach s (s.armIf r op t) :=
    reach_armIf hadj (fun hr _ he => checkDefined_complete (hcheck hr) he) t
  have hwork' : (s.armIf r op t).lc.work = .operation ph := (armIf_work s r op t).trans hwork
  have hadj' : (s.armIf r op t).adjusting = false := (adjusting_congr (armIf_work s r op t)).trans hadj
  unfold State.doArm
  split
  · exact reach_complete hadj _
  · cases span with
    | whole => exact harm.trans (reach_complete hadj' r)
    | carryOut => exact harm.trans (reach_carriedOut hadj' hwork' r)

theorem reach_carryCancel (s : State) (op : HostOp) (e : EntryNo) : Reach s (s.carryCancel op e).1 :=
  ((reach_disarm s e).trans (reach_takeAllPosts _)).trans (reach_takeCancel _ e _)

theorem reach_doCancel (hadj : s.adjusting = false) : Reach s (s.doCancel op ph) := by
  unfold State.doCancel
  split
  · exact reach_complete hadj _
  · exact (reach_carryCancel s op _).trans (reach_complete ((adjusting_congr (carryCancel_work s op _)).trans hadj) _)
  · exact reach_complete hadj _

theorem reach_carryClear (hd : DueLaw s) (c : ClassNo) : Reach s (s.carryClear c) :=
  ((reach_clearWalk hd c).trans (reach_takeAllPosts _)).trans (reach_takeClear _ c)

theorem reach_doClearClass (hd : DueLaw s) (hadj : s.adjusting = false) : Reach s (s.doClearClass op ph) := by
  unfold State.doClearClass
  split
  · exact reach_complete hadj _
  · exact reach_complete hadj _
  · exact (reach_carryClear hd _).trans (reach_complete ((adjusting_congr (carryClear_work s _)).trans hadj) _)

/-! ## SET TIME (R71, R73) -/

/-- The start shifts every record, and the origin of the due list stays where it was. -/
theorem reach_doSetTime (h : s.Carries .setTime op .started) : Reach s (s.doSetTime op) := by
  obtain ⟨hslot, hcode, hwork⟩ := h
  have hlc := State.takeAllPosts_lc s
  have hslot' : s.takeAllPosts.lc.slot = some op := by rw [hlc, hslot]
  have hadj : s.takeAllPosts.adjusting = false := not_adjusting fun d hd => by simp [hwork] at hd
  refine (reach_takeAllPosts s).tail <| .steady
    { entries := rfl, dueList := rfl, trigger := fun _ => rfl, posts := rfl, pulses := rfl, holders := fun _ => .refl _
      asserted := id
      waiting := ?_
      serving := ?_
      controller := fun _ => ⟨nofun, nofun, nofun, fun _ _ => Option.isSome_of_eq_some hslot', fun ph x hw hx => ?_⟩
      answer := nofun }
    ?_
  · simp only [waiting, State.doSetTime, State.load, DispatchUnit.shift, ← List.map_append, List.map_map]
    rfl
  · simp only [serving, State.doSetTime, State.load, DispatchUnit.shift, List.map_map]
    rfl
  · obtain rfl := Work.operation.inj hw
    obtain rfl : op = x := Option.some.inj (hslot'.symm.trans hx)
    exact hcode
  · rw [dueOrigin_of_not_adjusting hadj]
    exact sub_sub_cancel _ _

theorem reach_doWalkCompletion (hwork : s.lc.work = .operation ph) : Reach s (s.doWalkCompletion ph) := by
  cases ph with
  | adjusting d => exact .single (.walk hwork)
  | _ => exact .refl

/-! ## CONFIGURE LINE and CONFIGURE CLASS (R75, R76) -/

theorem reach_sendLineConfig (h : s.checkConfigureLine op = .complete) : Reach s (s.sendLineConfig op) := by
  unfold State.sendLineConfig
  split
  · exact .refl
  · next n cfg hcfg =>
    refine .single (.configure fun x hx hfree => ?_)
    simp [State.checkConfigureLine, hcfg, hx, hfree] at h

theorem sendLineConfig_work (s : State) (op : HostOp) : (s.sendLineConfig op).lc.work = s.lc.work := by
  unfold State.sendLineConfig
  split <;> rfl

theorem reach_doConfigureLine (hadj : s.adjusting = false) : Reach s (s.doConfigureLine op ph) := by
  unfold State.doConfigureLine
  split
  · exact reach_complete hadj _
  · split
    · next hcheck =>
      exact (reach_sendLineConfig hcheck).trans (reach_complete ((adjusting_congr (sendLineConfig_work s op)).trans hadj) _)
    · exact reach_complete hadj _

theorem takeLimit_work (s : State) (c : ClassNo) (limit : Half) : (s.takeLimit c limit).lc.work = s.lc.work := by
  rw [State.takeLimit_lc]

theorem reach_doConfigureClass (hadj : s.adjusting = false) : Reach s (s.doConfigureClass op ph) := by
  unfold State.doConfigureClass
  split
  · exact reach_complete hadj _
  · exact reach_complete hadj _
  · exact (reach_takeLimit s _ _).trans (reach_complete ((adjusting_congr (takeLimit_work s _ _)).trans hadj) _)

end

end Sys2Proof.Machine.Moves

namespace Sys2Proof.Machine.Moves

open ListOperations EventPool Service RegisterWindow HardwareReset Arms EntryOperations

/-! # Every command is a sequence of moves, a tick or a hardware reset -/

/-! ## The register window (R128, R162, R164, R165) -/

theorem blank_clearAll (s : State) : Blank s.clearAll := by
  rw [clearAll_eq]
  exact ⟨fun e => StepAndReset.reset_entry e, rfl, rfl, rfl, fun n => StepAndReset.reset_latch n, rfl,
    fun n => by rw [State.trigger, cleared_in], rfl, rfl, rfl, rfl, rfl, fun l => by rw [holders, cleared_out]⟩

theorem reach_clearAll (s : State) : Reach s s.clearAll :=
  .single <| .blank (blank_clearAll s) (by rw [clearAll_eq]; exact id)

theorem reach_control (s : State) (b : Byte) : Reach s (s.control b) := by
  have hr := reach_finishTick s
  have ht : Reach s (if b.getLsbD 2 then { s.finishTick with win := { s.finishTick.win with collision := false } }
      else s.finishTick) := reach_if (hr.trans (reach_quiet rfl rfl rfl)) hr
  have hu := reach_if (p := b.getLsbD 3 = true) (ht.trans (reach_quiet (t := State.popCapture _) rfl rfl rfl)) ht
  have hv := reach_if (p := b.getLsbD 4 = true) (hu.trans (reach_quiet (t := State.popMiss _) rfl rfl rfl)) hu
  exact reach_if (hv.trans (reach_clearAll _)) (hv.trans (reach_quiet rfl rfl rfl))

theorem reach_writeMask (s : State) (b : Byte) : Reach s (s.writeMask b) :=
  (reach_finishTick s).trans (reach_quiet rfl rfl rfl)

theorem reach_alertClear (s : State) (b : Byte) : Reach s (s.alertClear b) :=
  (reach_finishTick s).trans (reach_quiet rfl rfl rfl)

theorem reach_outputSet (s : State) (b : Byte) : Reach s (s.outputSet b) :=
  Quiet.reach ⟨rfl, rfl, fun _ => rfl, rfl, rfl, rfl, rfl, fun l => by
    simp only [holders, State.outputSet, Fin.getElem_fin, Vector.getElem_mapFinIdx]
    split <;> exact .refl _, id⟩

theorem reach_outputClear (s : State) (b : Byte) : Reach s (s.outputClear b) :=
  Quiet.reach ⟨rfl, rfl, fun _ => rfl, rfl, rfl, rfl, rfl, fun l => by
    simp only [holders, State.outputClear, Fin.getElem_fin, Vector.getElem_mapFinIdx]
    split
    · exact List.nil_sublist _
    · exact .refl _, id⟩

theorem reach_timeControl (s : State) (run capture : Bool) : Reach s (s.timeControl run capture) := by
  cases capture <;> exact reach_quiet rfl rfl rfl

theorem reach_busWrite {s : State} (hc : ControllerLaw s) (a : WinAddr) (b : Byte) : Reach s (s.busWrite a b) := by
  unfold State.busWrite
  split
  · exact reach_control s b
  · exact reach_writeOperation hc b
  · exact reach_quiet rfl rfl rfl
  · exact reach_quiet rfl rfl rfl
  · exact reach_quiet rfl rfl rfl
  · exact reach_writeDone s b
  · exact reach_quiet rfl rfl rfl
  · exact .refl
  · exact reach_writeMask s b
  · exact reach_alertClear s b
  · exact reach_quiet rfl rfl rfl
  · exact reach_outputSet s b
  · exact reach_outputClear s b
  · exact reach_timeControl s _ _
  · exact reach_quiet rfl rfl rfl
  · exact reach_quiet rfl rfl rfl

theorem reach_readView (s : State) : Reach s s.readView := (reach_finishTick s).trans (reach_quiet rfl rfl rfl)

theorem trigger_lines (s : State) {f : InputLine → InputLine} (h : ∀ i, (f i).cfg = i.cfg) (n : InLine) :
    ((mapAll f s.line.ins)[n]).cfg.trigger = s.trigger n := by
  simp only [Fin.getElem_fin, getElem_mapAll, h, State.trigger]

theorem reach_takeLineTick (s : State) : Reach s s.takeLineTick :=
  Quiet.reach ⟨rfl, rfl, trigger_lines s fun _ => rfl, rfl, rfl, rfl, rfl, fun _ => .refl _, id⟩

theorem reach_negateReset (s : State) : Reach s s.negateReset :=
  Quiet.reach ⟨rfl, rfl, trigger_lines s fun _ => rfl, rfl, rfl, rfl, rfl, fun _ => .refl _, nofun⟩

/-! ## Every command -/

/-- A change that is a sequence of moves. -/
def Reaches (f : State → State) : Prop := ∀ s, DueLaw s → ControllerLaw s → Reach s (f s)

theorem Reaches.of_reach {f : State → State} (h : ∀ s, Reach s (f s)) : Reaches f := fun s _ _ => h s

theorem Reaches.live {f : State → State} (h : Reaches f) : Reaches (whenLive f) := fun s hd hc =>
  reach_if .refl (h s hd hc)

theorem Reaches.unless {p : State → Prop} [DecidablePred p] {f : State → State} (h : Reaches f) :
    Reaches fun s => if p s then s else f s := fun s hd hc => reach_if .refl (h s hd hc)

/-- A row of the controller's work. -/
theorem Reaches.work {c : Instr} {f : State → State} (hc : ∀ s, exec c s = liveWork s f) (h : Reaches f) :
    Reaches (effect c) := by
  rw [effect_of_work hc]
  exact Reaches.live fun s hd hctl =>
    (reach_settle s).trans (h _ ((reach_settle s).dueLaw hd) ((reach_settle s).controllerLaw hctl))

/-- A row of an operation. -/
theorem Reaches.operation {c : Instr} {n : OpName} {f : State → HostOp → OpPhase → State}
    (hc : ∀ s, exec c s = liveWork s fun s => s.onOperation n (f s))
    (h : ∀ s op ph, DueLaw s → ControllerLaw s → s.Carries n op ph → Reach s (f s op ph)) : Reaches (effect c) :=
  Reaches.work hc fun s hd hctl => by
    rcases onOperation_cases s n (f s) with heq | ⟨op, ph, hcarries, heq⟩ <;> rw [heq]
    exact h s op ph hd hctl hcarries

/-- The other block has taken the request of an operation, which has then only to complete (R44, R70, R75, R76). -/
theorem reach_requested {s t : State} {n : OpName} {op : HostOp} {ph : OpPhase} (hc : ControllerLaw s)
    (h : s.Carries n op ph) (hn : n ≠ .setTime) (ht : Reach s t) (hwork : t.lc.work = s.lc.work) (r : Result) :
    Reach s (t.setWork (.operation (.carriedOut r))) := by
  have hadj : t.adjusting = false := (adjusting_congr hwork).trans (not_adjusting_of_carries hc h hn)
  exact ht.trans (reach_carriedOut hadj (hwork.trans (work_of_carries h)) r)

/-- An operation of an unknown code is not in the walk of SET TIME (R65). -/
theorem not_adjusting_of_unknown {s : State} {op : HostOp} (hc : ControllerLaw s) (hslot : s.lc.slot = some op)
    (h : OpName.ofCode op.code = none) : s.adjusting = false :=
  not_adjusting fun _ hd => nomatch h.symm.trans (hc.phase_fits _ op hd hslot)

/-- A command other than a TBCLK edge, a tick and a hardware reset is a sequence of moves. -/
theorem effect_reaches {c : Instr} (hedge : c ≠ .tbclkEdge) (htick : c ≠ .tick) (hreset : c ≠ .hardwareReset) :
    Reaches (effect c) := by
  cases c with
  | tbclkEdge => exact absurd rfl hedge
  | tick => exact absurd rfl htick
  | listControllerTick => exact .live (.unless fun _ _ hc => reach_takeListTick hc)
  | dispatchTick => exact .live (.unless (.of_reach reach_takeDispatchTick))
  | staleWithdrawal => exact .live (.of_reach reach_finishStale)
  | serviceOverrun => exact .live (.of_reach reach_finishOverrun)
  | lineUnitTick => exact .live (.unless (.of_reach reach_takeLineTick))
  | divisorLow b => exact .live fun _ _ _ => reach_quiet rfl rfl rfl
  | divisorHigh b => exact .live fun _ _ _ => reach_quiet rfl rfl rfl
  | runStart => exact .live fun s _ _ => reach_timeControl s _ _
  | runStop => exact .live fun s _ _ => reach_timeControl s _ _
  | capture run => exact .live fun s _ _ => reach_timeControl s _ _
  | operation code => exact .live fun _ _ hc => reach_writeOperation hc code
  | define => exact .operation exec_row_define fun _ _ _ _ hc h => reach_doDefine hc h
  | release => exact .operation exec_row_release fun _ _ _ _ hc h => reach_doRelease hc h
  | readDefinition => exact .operation exec_row_readDefinition fun _ _ _ _ hc h => reach_doReadDefinition hc h
  | readState => exact .operation exec_row_readState fun _ _ _ _ hc h => reach_doReadState hc h
  | arm span =>
    exact .operation (exec_row_arm span) fun _ _ _ _ hc h =>
      reach_doArm (not_adjusting_of_carries hc h (by decide)) (work_of_carries h) id span _
  | armAt span =>
    exact .operation (exec_row_armAt span) fun _ _ _ _ hc h =>
      reach_doArm (not_adjusting_of_carries hc h (by decide)) (work_of_carries h) checkArmAt_passes span _
  | cancel =>
    exact .operation exec_row_cancel fun _ _ _ _ hc h => reach_doCancel (not_adjusting_of_carries hc h (by decide))
  | clearClass =>
    exact .operation exec_row_clearClass fun _ _ _ hd hc h =>
      reach_doClearClass hd (not_adjusting_of_carries hc h (by decide))
  | setTime =>
    refine .operation exec_row_setTime fun s op ph _ _ h => ?_
    split
    · next hph => exact reach_doSetTime (hph ▸ h)
    · exact .refl
  | setTimeWalkCompletion =>
    exact .operation exec_row_setTimeWalkCompletion fun _ _ _ _ _ h => reach_doWalkCompletion (work_of_carries h)
  | configureLine =>
    exact .operation exec_row_configureLine fun _ _ _ _ hc h =>
      reach_doConfigureLine (not_adjusting_of_carries hc h (by decide))
  | configureClass =>
    exact .operation exec_row_configureClass fun _ _ _ _ hc h =>
      reach_doConfigureClass (not_adjusting_of_carries hc h (by decide))
  | unknownOperation =>
    refine .work exec_row_unknownOperation fun s _ hc => ?_
    split
    · next op ph hslot _ =>
      split
      · next hcode => exact reach_complete (not_adjusting_of_unknown hc hslot hcode) _
      · exact .refl
    · exact .refl
  | dueProcessingRun =>
    refine .work exec_row_dueProcessingRun fun s hd _ => ?_
    split
    · next hwork => exact reach_startRun hd hwork
    · exact .refl
  | triggerArm =>
    refine .work exec_row_triggerArm fun s _ _ => ?_
    split
    · next n hwork => exact reach_serveLatch hwork
    · exact .refl
  | postRequest => exact .live (.of_reach reach_takeNextPost)
  | cancelRequest =>
    refine .operation exec_row_cancelRequest fun s op ph _ hc h => ?_
    split
    · exact reach_requested hc h (by decide) (reach_carryCancel s op _) (carryCancel_work s op _) _
    · exact .refl
  | clearRequest =>
    refine .operation exec_row_clearRequest fun s op ph hd hc h => ?_
    split
    · exact reach_requested hc h (by decide) (reach_carryClear hd _) (carryClear_work s _) _
    · exact .refl
  | presenceQuery =>
    refine .work exec_row_presenceQuery fun s _ _ => ?_
    split
    · next e he => exact reach_presenceQuery he
    · exact .refl
  | serviceLimitReplacement =>
    refine .operation exec_row_serviceLimitReplacement fun s op ph _ hc h => ?_
    split
    · exact reach_requested hc h (by decide) (reach_takeLimit s _ _) (takeLimit_work s _ _) _
    · exact .refl
  | acknowledge => exact .live (.of_reach reach_readVector)
  | done b => exact .live fun s _ _ => reach_writeDone s b
  | actionRequest => exact .live (.of_reach reach_takeNextAction)
  | lineConfiguration =>
    refine .operation exec_row_lineConfiguration fun s op ph _ hc h => ?_
    split
    · next hcheck =>
      exact reach_requested hc h (by decide) (reach_sendLineConfig hcheck) (sendLineConfig_work s op) _
    · exact .refl
  | levelChange n level =>
    intro s hd hc
    have hpin : Reach s (s.setPin n level) := reach_setIn s n rfl
    exact hpin.trans (Reaches.live (fun _ _ hc => reach_takeChange hc n level) _ (hpin.dueLaw hd) (hpin.controllerLaw hc))
  | enable b => exact .live fun s _ _ => reach_control s b
  | clearAll b => exact .live fun s _ _ => reach_control s b
  | clearCollision b => exact .live fun s _ _ => reach_control s b
  | popCapture b => exact .live fun s _ _ => reach_control s b
  | popMiss b => exact .live fun s _ _ => reach_control s b
  | classMask b => exact .live fun s _ _ => reach_writeMask s b
  | alertClear b => exact .live fun s _ _ => reach_alertClear s b
  | alertEnable b => exact .live fun _ _ _ => reach_quiet rfl rfl rfl
  | outputSet b => exact .live fun s _ _ => reach_outputSet s b
  | outputClear b => exact .live fun s _ _ => reach_outputClear s b
  | stagePointer b => exact .live fun _ _ _ => reach_quiet rfl rfl rfl
  | stageDataWrite b => exact .live fun _ _ _ => reach_quiet rfl rfl rfl
  | stageDataRead => exact .live fun _ _ _ => reach_quiet rfl rfl rfl
  | viewData => exact .live (.of_reach reach_readView)
  | registerWrite a b => exact .live fun _ _ hc => reach_busWrite hc a b
  | hardwareReset => exact absurd rfl hreset
  | resetNegation => exact fun s _ _ => reach_if (reach_negateReset s) .refl
  | runNextExpiry =>
    refine .work exec_row_runNextExpiry fun s hd _ => ?_
    split
    · next limit hwork => exact reach_runExpiry hd (fun ph hph => nomatch hwork.symm.trans hph) limit
    · exact .refl

end Sys2Proof.Machine.Moves

namespace Sys2Proof.Machine.Moves

open ListOperations EventPool Service RegisterWindow HardwareReset Arms EntryOperations

/-! # What every step keeps -/

/-! ## A step is a sequence of moves, a tick or a hardware reset -/

theorem reach_pending (s : State) (rest : List Instr) : Reach s { s with pending := rest } := reach_quiet rfl rfl rfl

/-- A TBCLK edge and TICK make the tick, or move the phase (R2, R3). -/
theorem effect_edges {c : Instr} (h : c = .tbclkEdge ∨ c = .tick) (s : State) :
    effect c s = s.makeTick ∨ Reach s (effect c s) := by
  have held_or {f : State → State} (hf : f s = s.makeTick ∨ Reach s (f s)) :
      whenLive f s = s.makeTick ∨ Reach s (whenLive f s) := by
    unfold whenLive
    split
    · exact .inr .refl
    · exact hf
  rcases h with rfl | rfl
  · refine held_or (f := State.tbclk) ?_
    cases hrun : s.time.run with
    | false =>
      rw [TimeBaseRows.tbclk_stopped hrun]
      exact .inr .refl
    | true =>
      cases hlast : s.time.lastEdge with
      | false =>
        rw [TimeBaseRows.tbclk_counted hrun hlast]
        exact .inr (reach_quiet rfl rfl rfl)
      | true => exact .inl (TimeBaseRows.tbclk_completes hrun hlast)
  · refine held_or (f := fun s => if s.time.run && s.time.lastEdge then s.makeTick else s) ?_
    split
    · exact .inl rfl
    · exact .inr .refl

/-- What a step leaves. -/
theorem step_outcome {s t : State} (hd : DueLaw s) (hc : ControllerLaw s) (h : step s = .next t) :
    Reach s t ∨ ∃ q : State, Reach s q ∧ q.lc = s.lc ∧ q.time = s.time ∧ (t = q.makeTick ∨ t = q.hardwareReset) := by
  rcases step_cases h with rfl | ⟨c, rest, rfl⟩
  · exact .inl .refl
  · have hq := reach_pending s rest
    by_cases hreset : c = .hardwareReset
    · subst hreset
      exact .inr ⟨_, hq, rfl, rfl, .inr rfl⟩
    · by_cases hedge : c = .tbclkEdge ∨ c = .tick
      · rcases effect_edges hedge { s with pending := rest } with htick | hreach
        · exact .inr ⟨_, hq, rfl, rfl, .inl htick⟩
        · exact .inl (hq.trans hreach)
      · obtain ⟨hedge, htick⟩ := not_or.1 hedge
        exact .inl (hq.trans (effect_reaches hedge htick hreset _ (hq.dueLaw hd) (hq.controllerLaw hc)))

/-- What each move keeps, a sequence of moves keeps. -/
theorem Reach.keeps {P : State → Prop} (hmove : ∀ s t, Move s t → P s → P t) {s t : State} (h : Reach s t) (hs : P s) :
    P t := by
  induction h with
  | refl => exact hs
  | tail _ hm ih => exact hmove _ _ hm ih

/-- A law that implies those of the list controller, and that moves, ticks and hardware resets keep, is kept by every
step. -/
theorem stepKeeps_of_moves {P : State → Prop} (hdue : ∀ s, P s → DueLaw s) (hctl : ∀ s, P s → ControllerLaw s)
    (hmove : ∀ s t, Move s t → P s → P t) (htick : ∀ s, P s → P s.makeTick) (hreset : ∀ s, P (State.hardwareReset s)) :
    StepKeeps P := fun s t hs hstep => by
  rcases step_outcome (hdue s hs) (hctl s hs) hstep with hreach | ⟨q, hq, -, -, rfl | rfl⟩
  · exact hreach.keeps hmove hs
  · exact htick q (hq.keeps hmove hs)
  · exact hreset q

/-! ## The list controller's laws (O58) -/

theorem blank_hardwareReset (s : State) : Blank s.hardwareReset where
  entry := hardwareReset_entry s
  dueList := rfl
  work := rfl
  owed := rfl
  latches := hardwareReset_latch s
  slot := rfl
  trigger n := by
    rw [State.trigger, hardwareReset_in]
    rfl
  posts := rfl
  actions := rfl
  pool := rfl
  held := rfl
  stack := rfl
  holders l := by
    rw [holders, hardwareReset_out]
    rfl

/-- What the list controller owns in order. -/
structure ListLaws (s : State) : Prop where
  due : DueLaw s
  definitions : DefinitionLaw s
  references : ReferenceLaw s
  controller : ControllerLaw s

theorem Move.listLaws {s t : State} (hm : Move s t) (h : ListLaws s) : ListLaws t :=
  ⟨hm.dueLaw h.due, hm.definitionLaw h.due h.definitions, hm.referenceLaw h.due h.references, hm.controllerLaw h.controller⟩

/-- A tick touches the time base and the counts of ticks under way alone. -/
theorem listLaws_makeTick {s : State} (h : ListLaws s) : ListLaws s.makeTick :=
  ⟨dueLaw_congr h.due rfl rfl, definitionLaw_congr h.definitions (.of_entries rfl),
    referenceLaw_congr h.references (.of_entries rfl) fun _ => rfl, controllerLaw_congr h.controller rfl rfl rfl rfl⟩

theorem Blank.listLaws {t : State} (h : Blank t) : ListLaws t :=
  ⟨h.dueLaw, h.definitionLaw, h.referenceLaw, h.controllerLaw⟩

theorem listLaws_step : StepKeeps ListLaws :=
  stepKeeps_of_moves (fun _ h => h.due) (fun _ h => h.controller) (fun _ _ hm h => hm.listLaws h)
    (fun _ h => listLaws_makeTick h) fun s => (blank_hardwareReset s).listLaws

/-- Settles O58: a step is a sequence of moves, a tick or a hardware reset, and each of these keeps the laws. -/
theorem listControllerKeepsItsLaws : Obligations.ListControllerKeepsItsLaws := by
  intro s t ⟨hdue, hdefinitions, hreferences, hcontroller⟩ hstep
  have h := listLaws_step s t ⟨hdue, hdefinitions, hreferences, hcontroller⟩ hstep
  exact ⟨h.due, h.definitions, h.references, h.controller⟩

/-! ## The order of the due list (O22) -/

theorem dueOrigin_makeTick (s : State) : s.makeTick.dueOrigin = s.dueOrigin + 1 := by
  have hwork : s.makeTick.lc.work = s.lc.work := rfl
  have hcount : s.makeTick.time.count = s.time.count + 1 := rfl
  simp only [State.dueOrigin, hwork, hcount]
  split
  · exact add_sub_right_comm _ _ _
  · rfl

/-- One tick takes 1 off a difference that is not at the end of its range (R9). -/
theorem signedDiff_tick {due origin : Word} (h : -2 ^ 31 < signedDiff due origin) :
    signedDiff due (origin + 1) = signedDiff due origin - 1 := by
  have hstep : due - (origin + 1) = (due - origin) - 1 := (sub_sub due origin 1).symm
  rw [TimeBaseRows.signedDiff_eq] at h ⊢
  rw [TimeBaseRows.signedDiff_eq, hstep]
  generalize due - origin = d at h ⊢
  have hsub : (d - 1).toNat = if d.toNat = 0 then 2 ^ 32 - 1 else d.toNat - 1 := by
    split <;> bv_omega
  have := d.isLt
  rw [hsub]
  split at h <;> split <;> split <;> omega

/-- A tick brings every due time one nearer, and so keeps the order. -/
theorem dueOrder_makeTick {s : State} (h : s.DueOrder) (hrange : ∀ e ∈ s.lc.dueList, -2 ^ 31 < s.distanceOf e) :
    s.makeTick.DueOrder := by
  have hdist {e : EntryNo} (he : e ∈ s.lc.dueList) : s.makeTick.distanceOf e = s.distanceOf e - 1 := by
    rw [State.distanceOf, dueOrigin_makeTick]
    exact signedDiff_tick (hrange e he)
  refine List.Pairwise.imp_of_mem (fun {a b} ha hb hab => ?_) h
  rw [hdist ha, hdist hb]
  omega

/-- The order of the list, with the law that each move needs to keep it. -/
theorem Reach.dueOrder {s t : State} (h : Reach s t) (hd : DueLaw s) (ho : s.DueOrder) : t.DueOrder := by
  induction h with
  | refl => exact ho
  | tail hreach hm ih => exact hm.dueOrder (Reach.dueLaw hreach hd) ih

/-- Settles O22: the place of an insertion by induction on the list, and the order through moves, ticks and resets. -/
theorem insertionKeepsDueOrder : Obligations.InsertionKeepsDueOrder := by
  refine ⟨fun dist e l h => ⟨insertBy_pairwise dist e h, insertBy_split dist e h⟩, fun s t hd hc ho hrange hstep => ?_⟩
  rcases step_outcome hd hc hstep with hreach | ⟨q, hq, hlc, htime, rfl | rfl⟩
  · exact hreach.dueOrder hd ho
  · have hsame : q.distanceOf = s.distanceOf := by
      funext e
      simp only [State.distanceOf, State.dueOf, State.entry, State.dueOrigin, hlc, htime]
    exact dueOrder_makeTick (hq.dueOrder hd ho) (by rwa [hsame, hlc])
  · rw [State.DueOrder, (blank_hardwareReset q).dueList]
    exact .nil

/-! ## All the laws of the machine (O59) -/

/-- The laws that moves keep: those of the list controller, and with them those of the records and of the remaining. -/
structure MoveLaws (s : State) : Prop where
  list : ListLaws s
  remaining : RemainingLaw s
  ledger : Ledger s

theorem moveLaws_step : StepKeeps MoveLaws :=
  stepKeeps_of_moves (fun _ h => h.list.due) (fun _ h => h.list.controller)
    (fun _ _ hm h => ⟨hm.listLaws h.list, hm.remainingLaw h.list.due h.remaining,
      hm.ledger h.list.due h.list.definitions h.ledger⟩)
    (fun _ h => ⟨listLaws_makeTick h.list, remainingLaw_congr h.remaining rfl,
      ledger_of_same h.ledger (.of_entries rfl) rfl rfl rfl rfl (fun _ => .refl _) (answer_of_same rfl rfl)⟩)
    fun s => ⟨(blank_hardwareReset s).listLaws, (blank_hardwareReset s).remainingLaw, (blank_hardwareReset s).ledger⟩

/-- No move asserts RESET*. -/
theorem Move.asserted {s t : State} (hm : Move s t) (h : t.win.resetAsserted = true) : s.win.resetAsserted = true := by
  cases hm with
  | steady hs _ => exact hs.asserted h
  | dispatch hu _ => exact hu.asserted ▸ h
  | walk _ =>
    rw [shiftWalk_eq] at h
    exact h
  | blank _ hb => exact hb h
  | _ => exact h

theorem Reach.live {s t : State} (h : Reach s t) (hs : s.Live) : t.Live :=
  h.keeps (P := State.Live)
    (fun _ _ hm hq => Bool.eq_false_iff.2 fun ht => Bool.false_ne_true (Eq.trans (Eq.symm hq) (hm.asserted ht))) hs

/-- A hardware reset leaves nothing for another to change but the pins that move under it (R145, R173). -/
theorem hardwareReset_eq_self {s t : State} (hins : ∀ n : InLine, t.line.ins[n] = { t.line.ins[n] with
      cfg := .reset
      counter := 0 })
    (h : t = { s.hardwareReset with line := { LineUnit.reset with ins := t.line.ins }, pending := t.pending }) :
    t = t.hardwareReset := by
  have hsame : t.hardwareReset.line.ins = t.line.ins := by
    ext n hn : 1
    exact (hardwareReset_in t ⟨n, hn⟩).trans (hins ⟨n, hn⟩).symm
  have hline : t.hardwareReset.line = { LineUnit.reset with ins := t.line.ins } := by
    rw [← hsame]
    rfl
  calc t = { s.hardwareReset with line := { LineUnit.reset with ins := t.line.ins }, pending := t.pending } := h
    _ = { t.hardwareReset with line := t.hardwareReset.line } := by rw [hline]; rfl
    _ = t.hardwareReset := rfl

theorem hardwareReset_idem (s : State) : s.hardwareReset = s.hardwareReset.hardwareReset :=
  hardwareReset_eq_self (s := s) (fun n => by rw [hardwareReset_in]) rfl

/-- A pin that moves under RESET* moves alone. -/
theorem setPin_hardwareReset (s : State) (n : InLine) (level : Bool) :
    s.hardwareReset.setPin n level = (s.hardwareReset.setPin n level).hardwareReset := by
  refine hardwareReset_eq_self (s := s) (fun m => ?_) rfl
  simp only [State.setPin, State.setIn, Fin.getElem_fin, Vector.getElem_set]
  have hreset := hardwareReset_in s
  simp only [Fin.getElem_fin] at hreset
  split
  · rw [hreset n]
  · rw [hreset m]

/-- Under RESET* a step leaves the machine at its reset values, or negates RESET* (R131, R145, R158, R173). -/
theorem resetLaw_step {s t : State} (hd : DueLaw s) (hc : ControllerLaw s) (h : ResetLaw s) (hstep : step s = .next t) :
    ResetLaw t := by
  intro ht
  cases hs : s.win.resetAsserted with
  | false =>
    rcases step_outcome hd hc hstep with hreach | ⟨q, hq, -, -, rfl | rfl⟩
    · exact absurd ht (by simpa [State.Live] using hreach.live hs)
    · exact absurd ht (by simpa [State.Live] using hq.live hs)
    · exact hardwareReset_idem q
  | true =>
    rcases step_cases hstep with rfl | ⟨c, rest, rfl⟩
    · exact h hs
    · have hq : ({ s with pending := rest } : State) = ({ s with pending := rest } : State).hardwareReset :=
        congrArg (fun u : State => { u with pending := rest }) (h hs)
      generalize hqe : ({ s with pending := rest } : State) = q at hq ht ⊢
      have hasserted : q.win.resetAsserted = true := by rw [← hqe]; exact hs
      obtain ⟨hheld, -⟩ := OutputLines.nothingIsTakenUnderReset
      have hrow := hheld c q hasserted
      rw [exec_effect] at hrow
      cases c with
      | levelChange n level =>
        rw [Host.Outcome.next.inj hrow, hq]
        exact setPin_hardwareReset q n level
      | hardwareReset => exact hardwareReset_idem q
      | resetNegation =>
        rw [Host.Outcome.next.inj hrow] at ht
        cases ht
      | _ =>
        rw [Host.Outcome.next.inj hrow]
        exact hq

/-- Settles O59: the phase and the queues by their own statements, the other laws through the moves, and RESET* by what
its guard holds off. -/
theorem everyStepKeepsTheMachineLaw : Obligations.EveryStepKeepsTheMachineLaw := by
  intro s t h hstep
  have hmoves := moveLaws_step s t ⟨⟨h.due, h.definitions, h.references, h.controller⟩, h.remaining,
    ledger_of_laws h.records h.holders h.queues⟩ hstep
  obtain ⟨hqueues, -⟩ := queuesKeepTheirBounds s t ⟨h.queues, h.records.waiting_once⟩ hstep
  exact {
    phase := TimeBaseRows.phaseStaysBelowDivisor s t h.phase hstep
    queues := hqueues
    due := hmoves.list.due
    definitions := hmoves.list.definitions
    references := hmoves.list.references
    records := recordLaw_of_ledger hmoves.ledger
    holders := holderLaw_of_ledger hmoves.ledger
    remaining := hmoves.remaining
    controller := hmoves.list.controller
    reset := resetLaw_step h.due h.controller h.reset hstep }

end Sys2Proof.Machine.Moves
